-- ==== Sys2Proof/Word.lean ====
section
/-!
DEFINITION. The two word types of the machine: the byte (spec/00_scope.md R5, "addressable unit")
and the 16-bit word of PC, SP, the register pairs and addresses (R5, "address width").
-/

namespace Sys2Proof

/-- One byte: the width of A, B, C, D, E, H, L, F and of a memory cell (R5). -/
abbrev Byte := BitVec 8

/-- One 16-bit word: the width of PC, SP, the pairs and of an address (R5). -/
abbrev Word := BitVec 16

end Sys2Proof
end

