-- ==== Sys2Proof/Syntax.lean ====
section
/-!
DEFINITION. The instructions: one constructor of `Instr` for each row of spec/opcode_table.json,
with the operands decoded (spec/30_encoding.md R81 to R87).
-/

namespace Sys2Proof

/-- The seven registers an r8 operand can name (R83; the code 6 is not a register). -/
inductive R8 where
  | b | c | d | e | h | l | a
  deriving DecidableEq, Repr

/-- The `r16` table of R84: LD r16, n16; INC r16; DEC r16; ADD HL, r16. -/
inductive R16 where
  | bc | de | hl | sp
  deriving DecidableEq, Repr

/-- The `r16stk` table of R84: PUSH r16; POP r16. -/
inductive R16Stk where
  | bc | de | hl | af
  deriving DecidableEq, Repr

/-- The pointers of `LD (r16), A` and `LD A, (r16)` that have an encoding there (R84, R98). -/
inductive R16Ptr where
  | bc | de
  deriving DecidableEq, Repr

/-- The conditions of R85 and R180. -/
inductive Cond where
  | nz | z | nc | c
  deriving DecidableEq, Repr

/-- An instruction, after decoding. The name of a constructor is the row's mnemonic and operand
form. `prefixCB` stands for the table's row of the byte CBh alone, and `unassigned` for its eleven
rows of unassigned first bytes (R93). -/
inductive Instr where
  -- 8-bit arithmetic and logic, spec/40_alu8.md
  | adcHL
  | adcN8 (n : Byte)
  | adcR8 (r : R8)
  | addHL
  | addN8 (n : Byte)
  | addR8 (r : R8)
  | andHL
  | andN8 (n : Byte)
  | andR8 (r : R8)
  | ccf
  | cpHL
  | cpN8 (n : Byte)
  | cpR8 (r : R8)
  | cpl
  | daa
  | decHL
  | decR8 (r : R8)
  | incHL
  | incR8 (r : R8)
  | orHL
  | orN8 (n : Byte)
  | orR8 (r : R8)
  | sbcHL
  | sbcN8 (n : Byte)
  | sbcR8 (r : R8)
  | scf
  | subHL
  | subN8 (n : Byte)
  | subR8 (r : R8)
  | xorHL
  | xorN8 (n : Byte)
  | xorR8 (r : R8)
  -- 16-bit arithmetic, spec/41_alu16.md
  | addHLR16 (p : R16)
  | addSPE8 (e : Byte)
  | decR16 (p : R16)
  | incR16 (p : R16)
  -- bit test, reset, set, spec/42_bit.md
  | bitHL (k : BitVec 3)
  | bitR8 (k : BitVec 3) (r : R8)
  | resHL (k : BitVec 3)
  | resR8 (k : BitVec 3) (r : R8)
  | setHL (k : BitVec 3)
  | setR8 (k : BitVec 3) (r : R8)
  -- control transfer, spec/43_control.md
  | callCC (cc : Cond) (n : Word)
  | call (n : Word)
  | jpHL
  | jpCC (cc : Cond) (n : Word)
  | jp (n : Word)
  | jrCC (cc : Cond) (e : Byte)
  | jr (e : Byte)
  | ret
  | retCC (cc : Cond)
  | reti
  | rst (t : BitVec 3)
  -- system, spec/44_system.md
  | di
  | ei
  | halt
  | nop
  | stop
  -- loads, stores, stack, spec/45_load.md
  | ldCA
  | ldHLN8 (n : Byte)
  | ldHLR8 (r : R8)
  | ldN16A (n : Word)
  | ldN16SP (n : Word)
  | ldR16A (p : R16Ptr)
  | ldAC
  | ldAN16 (n : Word)
  | ldAR16 (p : R16Ptr)
  | ldHLSPE8 (e : Byte)
  | ldR16N16 (p : R16) (n : Word)
  | ldR8HL (r : R8)
  | ldR8N8 (r : R8) (n : Byte)
  | ldR8R8 (r q : R8)
  | ldSPHL
  | lddHLA
  | lddAHL
  | ldhE8A (e : Byte)
  | ldhAE8 (e : Byte)
  | ldiHLA
  | ldiAHL
  | popR16 (p : R16Stk)
  | pushR16 (p : R16Stk)
  -- rotates, shifts, swap, spec/46_rotate_shift.md
  | rlHL
  | rlR8 (r : R8)
  | rla
  | rlcHL
  | rlcR8 (r : R8)
  | rlca
  | rrHL
  | rrR8 (r : R8)
  | rra
  | rrcHL
  | rrcR8 (r : R8)
  | rrca
  | slaHL
  | slaR8 (r : R8)
  | sraHL
  | sraR8 (r : R8)
  | srlHL
  | srlR8 (r : R8)
  | swapHL
  | swapR8 (r : R8)
  -- the byte CBh alone and the unassigned first bytes, spec/30_encoding.md R92, R93
  | prefixCB
  | unassigned (b : Byte)
  deriving DecidableEq, Repr

end Sys2Proof
end

