-- ==== Sys2Proof/WellFormed.lean ====
section
/-!
DEFINITION. Which terms of `Instr` are instructions of the machine. The operand types already admit
only the values of R83 to R87; two checks remain.
-/

namespace Sys2Proof

/-- The eleven first bytes to which the opcode map assigns no instruction (R93). -/
def unassignedBytes : List Byte :=
  [0xD3#8, 0xDB#8, 0xDD#8, 0xE3#8, 0xE4#8, 0xEB#8, 0xEC#8, 0xED#8, 0xF4#8, 0xFC#8, 0xFD#8]

/-- Check 1: an unassigned opcode carries one of the eleven bytes of R93. Check 2: the byte CBh alone
is not an instruction, it needs its second byte (R92). -/
def Instr.wellFormed (i : Instr) : Bool :=
  match i with
  | .unassigned b => unassignedBytes.contains b
  | .prefixCB => false
  | _ => true

end Sys2Proof
end

