-- ==== Sys2Proof/Decode.lean ====
section
/-!
DEFINITION. Decoding and encoding (spec/30_encoding.md). The decoder reads the fields of an opcode
byte (R82 to R87) block by block (R88 to R92) and is total on any three bytes (R95); the encoder
writes the Encoding line of each instruction's rule. Every bit pattern is the spec's decision D1.
-/

namespace Sys2Proof

/-! ## Bytes and words -/

/-- Bits 7..0 of a word. -/
def loByte (v : Word) : Byte := v.extractLsb' 0 8

/-- Bits 15..8 of a word. -/
def hiByte (v : Word) : Byte := v.extractLsb' 8 8

/-- `hi : lo`, the high byte the more significant (R6, R22). -/
def wordOf (hi lo : Byte) : Word := hi ++ lo

/-! ## The fields of an opcode byte (R82) -/

/-- Field x, bits 7:6: the block. -/
def fieldX (op : Byte) : Nat := (op.extractLsb' 6 2).toNat

/-- Field y (d, b, t), bits 5:3. -/
def fieldY (op : Byte) : BitVec 3 := op.extractLsb' 3 3

/-- Field z (s), bits 2:0. -/
def fieldZ (op : Byte) : BitVec 3 := op.extractLsb' 0 3

/-- Field p, bits 5:4. -/
def fieldP (op : Byte) : BitVec 2 := op.extractLsb' 4 2

/-- Field q, bit 3. -/
def fieldQ (op : Byte) : Bool := op.getLsbD 3

/-- Field c, bits 4:3. -/
def fieldC (op : Byte) : BitVec 2 := op.extractLsb' 3 2

/-! ## The operand tables (R83, R84, R85) -/

/-- R83: the register a 3-bit field selects; `none` for the code 6, which is `(HL)`. -/
def r8OfField (f : BitVec 3) : Option R8 :=
  match f.toNat with
  | 0 => some .b
  | 1 => some .c
  | 2 => some .d
  | 3 => some .e
  | 4 => some .h
  | 5 => some .l
  | 6 => none
  | _ => some .a

/-- R83: the code of a register. -/
def fieldOfR8 (r : R8) : BitVec 3 :=
  match r with
  | .b => 0
  | .c => 1
  | .d => 2
  | .e => 3
  | .h => 4
  | .l => 5
  | .a => 7

/-- R84, table `r16`. -/
def r16OfField (f : BitVec 2) : R16 :=
  match f.toNat with
  | 0 => .bc
  | 1 => .de
  | 2 => .hl
  | _ => .sp

/-- R84, table `r16`. -/
def fieldOfR16 (p : R16) : BitVec 2 :=
  match p with
  | .bc => 0
  | .de => 1
  | .hl => 2
  | .sp => 3

/-- R84, table `r16stk`. -/
def r16StkOfField (f : BitVec 2) : R16Stk :=
  match f.toNat with
  | 0 => .bc
  | 1 => .de
  | 2 => .hl
  | _ => .af

/-- R84, table `r16stk`. -/
def fieldOfR16Stk (p : R16Stk) : BitVec 2 :=
  match p with
  | .bc => 0
  | .de => 1
  | .hl => 2
  | .af => 3

/-- R84: the one-bit field p (bit 4) of `LD (r16), A` and `LD A, (r16)`. -/
def fieldOfR16Ptr (p : R16Ptr) : BitVec 1 :=
  match p with
  | .bc => 0
  | .de => 1

/-- R85: the condition a 2-bit field selects. -/
def condOfField (f : BitVec 2) : Cond :=
  match f.toNat with
  | 0 => .nz
  | 1 => .z
  | 2 => .nc
  | _ => .c

/-- R85: the code of a condition. -/
def fieldOfCond (cc : Cond) : BitVec 2 :=
  match cc with
  | .nz => 0
  | .z => 1
  | .nc => 2
  | .c => 3

/-! ## The decoder -/

/-- R90: A-operation number y on a register. -/
def aluOnR8 (y : BitVec 3) (r : R8) : Instr :=
  match y.toNat with
  | 0 => .addR8 r
  | 1 => .adcR8 r
  | 2 => .subR8 r
  | 3 => .sbcR8 r
  | 4 => .andR8 r
  | 5 => .xorR8 r
  | 6 => .orR8 r
  | _ => .cpR8 r

/-- R90: A-operation number y on the byte at HL. -/
def aluOnHL (y : BitVec 3) : Instr :=
  match y.toNat with
  | 0 => .addHL
  | 1 => .adcHL
  | 2 => .subHL
  | 3 => .sbcHL
  | 4 => .andHL
  | 5 => .xorHL
  | 6 => .orHL
  | _ => .cpHL

/-- R91, column 6: A-operation number y on the immediate byte. -/
def aluOnN8 (y : BitVec 3) (n : Byte) : Instr :=
  match y.toNat with
  | 0 => .addN8 n
  | 1 => .adcN8 n
  | 2 => .subN8 n
  | 3 => .sbcN8 n
  | 4 => .andN8 n
  | 5 => .xorN8 n
  | 6 => .orN8 n
  | _ => .cpN8 n

/-- R88, column 0: NOP, LD (n16), SP, STOP, JR. -/
def decodeColumn0 (op n : Byte) (w : Word) : Instr :=
  match (fieldY op).toNat with
  | 0 => .nop
  | 1 => .ldN16SP w
  | 2 => .stop
  | 3 => .jr n
  | _ => .jrCC (condOfField (fieldC op)) n

/-- R88, column 2: the loads and stores of A through a register pair. -/
def decodeColumn2 (op : Byte) : Instr :=
  match (fieldY op).toNat with
  | 0 => .ldR16A .bc
  | 1 => .ldAR16 .bc
  | 2 => .ldR16A .de
  | 3 => .ldAR16 .de
  | 4 => .ldiHLA
  | 5 => .ldiAHL
  | 6 => .lddHLA
  | _ => .lddAHL

/-- R88, column 7: the one-byte operations on A and the flags. -/
def decodeColumn7 (op : Byte) : Instr :=
  match (fieldY op).toNat with
  | 0 => .rlca
  | 1 => .rrca
  | 2 => .rla
  | 3 => .rra
  | 4 => .daa
  | 5 => .cpl
  | 6 => .scf
  | _ => .ccf

/-- R88: block 0, opcode bytes 00h to 3Fh. -/
def decodeBlock0 (op n : Byte) (w : Word) : Instr :=
  match (fieldZ op).toNat with
  | 0 => decodeColumn0 op n w
  | 1 => if fieldQ op then .addHLR16 (r16OfField (fieldP op)) else .ldR16N16 (r16OfField (fieldP op)) w
  | 2 => decodeColumn2 op
  | 3 => if fieldQ op then .decR16 (r16OfField (fieldP op)) else .incR16 (r16OfField (fieldP op))
  | 4 =>
    match r8OfField (fieldY op) with
    | some r => .incR8 r
    | none => .incHL
  | 5 =>
    match r8OfField (fieldY op) with
    | some r => .decR8 r
    | none => .decHL
  | 6 =>
    match r8OfField (fieldY op) with
    | some r => .ldR8N8 r n
    | none => .ldHLN8 n
  | _ => decodeColumn7 op

/-- R89: block 1, opcode bytes 40h to 7Fh. -/
def decodeBlock1 (op : Byte) : Instr :=
  match r8OfField (fieldY op), r8OfField (fieldZ op) with
  | some r, some q => .ldR8R8 r q
  | some r, none => .ldR8HL r
  | none, some q => .ldHLR8 q
  | none, none => .halt

/-- R90: block 2, opcode bytes 80h to BFh. -/
def decodeBlock2 (op : Byte) : Instr :=
  match r8OfField (fieldZ op) with
  | some r => aluOnR8 (fieldY op) r
  | none => aluOnHL (fieldY op)

/-- R92, x = 0: rotate or shift number y on a register. -/
def rotateOnR8 (y : BitVec 3) (r : R8) : Instr :=
  match y.toNat with
  | 0 => .rlcR8 r
  | 1 => .rrcR8 r
  | 2 => .rlR8 r
  | 3 => .rrR8 r
  | 4 => .slaR8 r
  | 5 => .sraR8 r
  | 6 => .swapR8 r
  | _ => .srlR8 r

/-- R92, x = 0: rotate or shift number y on the byte at HL. -/
def rotateOnHL (y : BitVec 3) : Instr :=
  match y.toNat with
  | 0 => .rlcHL
  | 1 => .rrcHL
  | 2 => .rlHL
  | 3 => .rrHL
  | 4 => .slaHL
  | 5 => .sraHL
  | 6 => .swapHL
  | _ => .srlHL

/-- R92: the instruction that the second opcode byte after CBh names. All 256 are assigned. -/
def decodeCB (op2 : Byte) : Instr :=
  match r8OfField (fieldZ op2) with
  | some r =>
    match fieldX op2 with
    | 0 => rotateOnR8 (fieldY op2) r
    | 1 => .bitR8 (fieldY op2) r
    | 2 => .resR8 (fieldY op2) r
    | _ => .setR8 (fieldY op2) r
  | none =>
    match fieldX op2 with
    | 0 => rotateOnHL (fieldY op2)
    | 1 => .bitHL (fieldY op2)
    | 2 => .resHL (fieldY op2)
    | _ => .setHL (fieldY op2)

/-- R91: block 3, opcode bytes C0h to FFh. A byte that no row of the map claims is one of the eleven
of R93. -/
def decodeBlock3 (op n : Byte) (w : Word) : Instr :=
  match (fieldZ op).toNat, (fieldY op).toNat with
  | 0, 4 => .ldhE8A n
  | 0, 5 => .addSPE8 n
  | 0, 6 => .ldhAE8 n
  | 0, 7 => .ldHLSPE8 n
  | 0, _ => .retCC (condOfField (fieldC op))
  | 1, 1 => .ret
  | 1, 3 => .reti
  | 1, 5 => .jpHL
  | 1, 7 => .ldSPHL
  | 1, _ => .popR16 (r16StkOfField (fieldP op))
  | 2, 4 => .ldCA
  | 2, 5 => .ldN16A w
  | 2, 6 => .ldAC
  | 2, 7 => .ldAN16 w
  | 2, _ => .jpCC (condOfField (fieldC op)) w
  | 3, 0 => .jp w
  | 3, 1 => decodeCB n
  | 3, 6 => .di
  | 3, 7 => .ei
  | 3, _ => .unassigned op
  | 4, 0 => .callCC .nz w
  | 4, 1 => .callCC .z w
  | 4, 2 => .callCC .nc w
  | 4, 3 => .callCC .c w
  | 4, _ => .unassigned op
  | 5, 0 => .pushR16 .bc
  | 5, 1 => .call w
  | 5, 2 => .pushR16 .de
  | 5, 4 => .pushR16 .hl
  | 5, 6 => .pushR16 .af
  | 5, _ => .unassigned op
  | 6, _ => aluOnN8 (fieldY op) n
  | _, _ => .rst (fieldY op)

/-- R95: the instruction that begins with the bytes `op`, `b1`, `b2`, total on any bytes. A byte past the
instruction's length is not looked at. The immediate word is low byte first (R86). -/
def decodeBytes (op b1 b2 : Byte) : Instr :=
  match fieldX op with
  | 0 => decodeBlock0 op b1 (wordOf b2 b1)
  | 1 => decodeBlock1 op
  | 2 => decodeBlock2 op
  | _ => decodeBlock3 op b1 (wordOf b2 b1)

/-- R80, R95: the length in bytes of the instruction that begins with the byte `op`. -/
def lengthOf (op : Byte) : Nat :=
  match fieldX op, (fieldZ op).toNat, (fieldY op).toNat with
  | 0, 0, 0 => 1
  | 0, 0, 1 => 3
  | 0, 0, _ => 2
  | 0, 1, _ => if fieldQ op then 1 else 3
  | 0, 6, _ => 2
  | 0, _, _ => 1
  | 1, _, _ => 1
  | 2, _, _ => 1
  | _, 0, 0 => 1
  | _, 0, 1 => 1
  | _, 0, 2 => 1
  | _, 0, 3 => 1
  | _, 0, _ => 2
  | _, 2, 4 => 1
  | _, 2, 6 => 1
  | _, 2, _ => 3
  | _, 3, 0 => 3
  | _, 3, 1 => 2
  | _, 4, 0 => 3
  | _, 4, 1 => 3
  | _, 4, 2 => 3
  | _, 4, 3 => 3
  | _, 5, 1 => 3
  | _, 6, _ => 2
  | _, _, _ => 1

/-- Why a list of bytes holds no instruction. -/
inductive DecodeError where
  /-- There is no byte at all. -/
  | noByte
  /-- The list ends inside the instruction that begins with this byte. -/
  | truncated (op : Byte)
  deriving DecidableEq, Repr

/-- R95 on a list of bytes: the instruction and the bytes after it. -/
def decode (bytes : List Byte) : Except DecodeError (Instr × List Byte) :=
  match bytes with
  | [] => .error .noByte
  | op :: rest =>
    match lengthOf op, rest with
    | 1, _ => .ok (decodeBytes op 0 0, rest)
    | 2, b1 :: after => .ok (decodeBytes op b1 0, after)
    | 3, b1 :: b2 :: after => .ok (decodeBytes op b1 b2, after)
    | _, _ => .error (.truncated op)

/-- The instruction the decoder reads from the word `w`, numbered as spec/opcode_table.json numbers
it: the first byte is bits 7..0, the second bits 15..8, the third bits 23..16; every bit from
`nbits` up is 0. -/
def decodeTableWord (nbits w : Nat) : Option Instr :=
  let v := w % 2 ^ nbits
  match decode [BitVec.ofNat 8 v, BitVec.ofNat 8 (v / 2 ^ 8), BitVec.ofNat 8 (v / 2 ^ 16)] with
  | .ok (i, _) => some i
  | .error _ => none

/-! ## The encoder: the Encoding line of every instruction's rule -/

/-- The bytes of an instruction with an immediate word: low byte first (R86). -/
def withWord (op : Byte) (n : Word) : List Byte := [op, loByte n, hiByte n]

/-- The two bytes of a CBh-prefixed instruction (R92). -/
def withCB (op2 : Byte) : List Byte := [0xCB#8, op2]

/-- The bytes of an instruction. STOP's second byte is 00h by convention (R204). -/
def encode (i : Instr) : List Byte :=
  match i with
  | .adcHL => [0b10001110#8]
  | .adcN8 n => [0b11001110#8, n]
  | .adcR8 r => [0b10001#5 ++ fieldOfR8 r]
  | .addHL => [0b10000110#8]
  | .addN8 n => [0b11000110#8, n]
  | .addR8 r => [0b10000#5 ++ fieldOfR8 r]
  | .andHL => [0b10100110#8]
  | .andN8 n => [0b11100110#8, n]
  | .andR8 r => [0b10100#5 ++ fieldOfR8 r]
  | .ccf => [0b00111111#8]
  | .cpHL => [0b10111110#8]
  | .cpN8 n => [0b11111110#8, n]
  | .cpR8 r => [0b10111#5 ++ fieldOfR8 r]
  | .cpl => [0b00101111#8]
  | .daa => [0b00100111#8]
  | .decHL => [0b00110101#8]
  | .decR8 r => [0b00#2 ++ fieldOfR8 r ++ 0b101#3]
  | .incHL => [0b00110100#8]
  | .incR8 r => [0b00#2 ++ fieldOfR8 r ++ 0b100#3]
  | .orHL => [0b10110110#8]
  | .orN8 n => [0b11110110#8, n]
  | .orR8 r => [0b10110#5 ++ fieldOfR8 r]
  | .sbcHL => [0b10011110#8]
  | .sbcN8 n => [0b11011110#8, n]
  | .sbcR8 r => [0b10011#5 ++ fieldOfR8 r]
  | .scf => [0b00110111#8]
  | .subHL => [0b10010110#8]
  | .subN8 n => [0b11010110#8, n]
  | .subR8 r => [0b10010#5 ++ fieldOfR8 r]
  | .xorHL => [0b10101110#8]
  | .xorN8 n => [0b11101110#8, n]
  | .xorR8 r => [0b10101#5 ++ fieldOfR8 r]
  | .addHLR16 p => [0b00#2 ++ fieldOfR16 p ++ 0b1001#4]
  | .addSPE8 e => [0b11101000#8, e]
  | .decR16 p => [0b00#2 ++ fieldOfR16 p ++ 0b1011#4]
  | .incR16 p => [0b00#2 ++ fieldOfR16 p ++ 0b0011#4]
  | .bitHL k => withCB (0b01#2 ++ k ++ 0b110#3)
  | .bitR8 k r => withCB (0b01#2 ++ k ++ fieldOfR8 r)
  | .resHL k => withCB (0b10#2 ++ k ++ 0b110#3)
  | .resR8 k r => withCB (0b10#2 ++ k ++ fieldOfR8 r)
  | .setHL k => withCB (0b11#2 ++ k ++ 0b110#3)
  | .setR8 k r => withCB (0b11#2 ++ k ++ fieldOfR8 r)
  | .callCC cc n => withWord (0b110#3 ++ fieldOfCond cc ++ 0b100#3) n
  | .call n => withWord 0b11001101#8 n
  | .jpHL => [0b11101001#8]
  | .jpCC cc n => withWord (0b110#3 ++ fieldOfCond cc ++ 0b010#3) n
  | .jp n => withWord 0b11000011#8 n
  | .jrCC cc e => [0b001#3 ++ fieldOfCond cc ++ 0b000#3, e]
  | .jr e => [0b00011000#8, e]
  | .ret => [0b11001001#8]
  | .retCC cc => [0b110#3 ++ fieldOfCond cc ++ 0b000#3]
  | .reti => [0b11011001#8]
  | .rst t => [0b11#2 ++ t ++ 0b111#3]
  | .di => [0b11110011#8]
  | .ei => [0b11111011#8]
  | .halt => [0b01110110#8]
  | .nop => [0b00000000#8]
  | .stop => [0b00010000#8, 0x00#8]
  | .ldCA => [0b11100010#8]
  | .ldHLN8 n => [0b00110110#8, n]
  | .ldHLR8 r => [0b01110#5 ++ fieldOfR8 r]
  | .ldN16A n => withWord 0b11101010#8 n
  | .ldN16SP n => withWord 0b00001000#8 n
  | .ldR16A p => [0b000#3 ++ fieldOfR16Ptr p ++ 0b0010#4]
  | .ldAC => [0b11110010#8]
  | .ldAN16 n => withWord 0b11111010#8 n
  | .ldAR16 p => [0b000#3 ++ fieldOfR16Ptr p ++ 0b1010#4]
  | .ldHLSPE8 e => [0b11111000#8, e]
  | .ldR16N16 p n => withWord (0b00#2 ++ fieldOfR16 p ++ 0b0001#4) n
  | .ldR8HL r => [0b01#2 ++ fieldOfR8 r ++ 0b110#3]
  | .ldR8N8 r n => [0b00#2 ++ fieldOfR8 r ++ 0b110#3, n]
  | .ldR8R8 r q => [0b01#2 ++ fieldOfR8 r ++ fieldOfR8 q]
  | .ldSPHL => [0b11111001#8]
  | .lddHLA => [0b00110010#8]
  | .lddAHL => [0b00111010#8]
  | .ldhE8A e => [0b11100000#8, e]
  | .ldhAE8 e => [0b11110000#8, e]
  | .ldiHLA => [0b00100010#8]
  | .ldiAHL => [0b00101010#8]
  | .popR16 p => [0b11#2 ++ fieldOfR16Stk p ++ 0b0001#4]
  | .pushR16 p => [0b11#2 ++ fieldOfR16Stk p ++ 0b0101#4]
  | .rlHL => withCB 0b00010110#8
  | .rlR8 r => withCB (0b00010#5 ++ fieldOfR8 r)
  | .rla => [0b00010111#8]
  | .rlcHL => withCB 0b00000110#8
  | .rlcR8 r => withCB (0b00000#5 ++ fieldOfR8 r)
  | .rlca => [0b00000111#8]
  | .rrHL => withCB 0b00011110#8
  | .rrR8 r => withCB (0b00011#5 ++ fieldOfR8 r)
  | .rra => [0b00011111#8]
  | .rrcHL => withCB 0b00001110#8
  | .rrcR8 r => withCB (0b00001#5 ++ fieldOfR8 r)
  | .rrca => [0b00001111#8]
  | .slaHL => withCB 0b00100110#8
  | .slaR8 r => withCB (0b00100#5 ++ fieldOfR8 r)
  | .sraHL => withCB 0b00101110#8
  | .sraR8 r => withCB (0b00101#5 ++ fieldOfR8 r)
  | .srlHL => withCB 0b00111110#8
  | .srlR8 r => withCB (0b00111#5 ++ fieldOfR8 r)
  | .swapHL => withCB 0b00110110#8
  | .swapR8 r => withCB (0b00110#5 ++ fieldOfR8 r)
  | .prefixCB => [0b11001011#8]
  | .unassigned b => [b]

/-- The length in bytes of an instruction: the source's Bytes column (R81). The byte CBh alone counts
as the one byte it is. -/
def instrLength (i : Instr) : Nat :=
  match i with
  | .adcHL | .addHL | .andHL | .cpHL | .orHL | .sbcHL | .subHL | .xorHL => 1
  | .adcR8 _ | .addR8 _ | .andR8 _ | .cpR8 _ | .orR8 _ | .sbcR8 _ | .subR8 _ | .xorR8 _ => 1
  | .adcN8 _ | .addN8 _ | .andN8 _ | .cpN8 _ | .orN8 _ | .sbcN8 _ | .subN8 _ | .xorN8 _ => 2
  | .ccf | .cpl | .daa | .scf | .decHL | .incHL | .decR8 _ | .incR8 _ => 1
  | .addHLR16 _ | .decR16 _ | .incR16 _ => 1
  | .addSPE8 _ => 2
  | .bitHL _ | .resHL _ | .setHL _ | .bitR8 _ _ | .resR8 _ _ | .setR8 _ _ => 2
  | .callCC _ _ | .call _ | .jpCC _ _ | .jp _ => 3
  | .jrCC _ _ | .jr _ => 2
  | .jpHL | .ret | .retCC _ | .reti | .rst _ => 1
  | .di | .ei | .halt | .nop => 1
  | .stop => 2
  | .ldCA | .ldAC | .ldHLR8 _ | .ldR16A _ | .ldAR16 _ | .ldR8HL _ | .ldR8R8 _ _ | .ldSPHL => 1
  | .lddHLA | .lddAHL | .ldiHLA | .ldiAHL | .popR16 _ | .pushR16 _ => 1
  | .ldHLN8 _ | .ldHLSPE8 _ | .ldR8N8 _ _ | .ldhE8A _ | .ldhAE8 _ => 2
  | .ldN16A _ | .ldN16SP _ | .ldAN16 _ | .ldR16N16 _ _ => 3
  | .rla | .rlca | .rra | .rrca => 1
  | .rlHL | .rlcHL | .rrHL | .rrcHL | .slaHL | .sraHL | .srlHL | .swapHL => 2
  | .rlR8 _ | .rlcR8 _ | .rrR8 _ | .rrcR8 _ | .slaR8 _ | .sraR8 _ | .srlR8 _ | .swapR8 _ => 2
  | .prefixCB | .unassigned _ => 1

end Sys2Proof
end

