-- ==== Sys2Proof/Config.lean ====
section
/-!
DEFINITION. What an implementation or platform fixes: the kinds of address and the recorded bus
events of `Bus` (spec/20_memory.md R52), the free draws, the byte an unlisted cell reads as, and
the two named maps of the address space (R52 "flat", R58).
-/

namespace Sys2Proof

/-- The four kinds of address of `Bus.kind` (R52). `unmapped` is the spec's OPEN. -/
inductive BusKind where
  | ram
  | rom
  | device
  | unmapped
  deriving DecidableEq, Repr

/-- One entry of the history (R53, R54): a byte read or a byte written, with its address. -/
inductive BusEvent where
  | read (a : Word) (v : Byte)
  | write (a : Word) (v : Byte)
  deriving DecidableEq, Repr

/-- A run of addresses of one kind, `first` to `last` inclusive. -/
structure Region where
  first : Nat
  last : Nat
  kind : BusKind
  deriving DecidableEq, Repr

namespace Config

/-- FREE VALUE. `Bus.draw` of R52: the answer of a DEVICE or OPEN read, "any byte, under no law". It
sees the history before the read (newest event first) and the address. Log entry 4. -/
opaque busDraw : List BusEvent → Word → Byte

/-- FREE VALUE. What bits 7 to 5 of IF read as: R303 says they "are not implemented; what they read
as is not described here". Log entry 5. -/
opaque ifUnusedBits : List BusEvent → BitVec 3

/-- What a cell that the memory list does not name holds. DESIGN CHOICE, unsafe: log entry 3. -/
def unlistedByte : Byte := 0x00#8

/-- The default map of R52, "flat": every address RAM. An address that no region covers is RAM. -/
def flatBus : List Region := []

/-- The map of the original Game Boy, R58, as a guide (`banked`: the cartridge has a bank
controller, whose ROM range R52 makes DEVICE). Ranges that another bus master writes, that a bank
controller or the LCD makes unreachable, or that alias other cells are DEVICE. DESIGN CHOICE, log
entry 6; it is also the model's choice that 0000h to 00FFh is the cartridge's: this is the map after
the boot ROM, which overlays that range, has handed over, and holds only from then on. -/
def gameBoyBus (banked : Bool) : List Region :=
  [ ⟨0x0000, 0x7FFF, if banked then .device else .rom⟩,
    ⟨0x8000, 0x9FFF, .device⟩,
    ⟨0xA000, 0xBFFF, .device⟩,
    ⟨0xC000, 0xDFFF, .device⟩,
    ⟨0xE000, 0xFDFF, .device⟩,
    ⟨0xFE00, 0xFE9F, .device⟩,
    ⟨0xFEA0, 0xFEFF, .unmapped⟩,
    ⟨0xFF00, 0xFF7F, .device⟩,
    ⟨0xFF80, 0xFFFE, .ram⟩ ]

end Config

end Sys2Proof
end

