-- ==== Sys2Proof/Machine/State.lean ====
section
/-!
DEFINITION. The state of the machine as plain data: every item of spec/10_state.md R20, the platform
behind the parameters `Bus`, `IntCtl` and `StopWake` (R52, R302, R303, R204), and the history of
R53 and R54; the reasons a step can stop; and the state right after reset (R340).
-/

namespace Sys2Proof.Machine

/-- The flags Z, N, H, C: bits 7 to 4 of F (R25). F is computed from them: its bits 3..0 have no
storage and read 0 (R26). -/
structure Flags where
  z : Bool
  n : Bool
  h : Bool
  c : Bool
  deriving DecidableEq, Repr

/-- The seven 8-bit general registers (R21). The pairs BC, DE, HL are not separate state (R22). -/
structure Regs where
  a : Byte
  b : Byte
  c : Byte
  d : Byte
  e : Byte
  h : Byte
  l : Byte
  deriving DecidableEq, Repr

/-- The run mode (R29). `locked` records the byte of the fault IllegalOpcode (R300). -/
inductive Mode where
  | running
  | halted
  | stopped
  | locked (op : Byte)
  deriving DecidableEq, Repr

/-- One source of an interrupt controller given by its list of sources (R302). -/
structure Source where
  vector : Word
  enabled : Bool
  raised : Bool
  deriving DecidableEq, Repr

/-- The parameter `IntCtl` (R302). `gameBoy` is the instance of R303: the byte IE and the five
implemented bits of IF. `sources` is any other controller: its sources, highest priority first
(source n is entry n), and the address of the byte that holds its enable mask, if there is one. -/
inductive IntCtl where
  | gameBoy (ie : Byte) (irq : BitVec 5)
  | sources (list : List Source) (mask : Option Word)
  deriving DecidableEq, Repr

/-- The parameter `ResetState` (R340): the value of every register that a reset sets. -/
structure ResetState where
  regs : Regs
  flags : Flags
  sp : Word
  pc : Word
  ime : Bool
  deriving DecidableEq, Repr

/-- What a platform can do to its interrupt controller between two boundaries (R302, R303). -/
inductive IrqEvent where
  /-- A device raises the request of source n. -/
  | raise (n : Nat)
  /-- The platform withdraws the request of source n (`IntCtl.sources` only). -/
  | withdraw (n : Nat)
  /-- The platform enables or disables source n (`IntCtl.sources` only). -/
  | enable (n : Nat) (on : Bool)
  deriving DecidableEq, Repr

/-- What the world outside does to the CPU at one boundary (R348): a reset, interrupt requests, the
end of a STOP. -/
structure Arrival where
  reset : Option ResetState
  irqs : List IrqEvent
  stopWake : Bool
  deriving DecidableEq, Repr

/-- Memory: the cells that differ from `Config.unlistedByte`, by rising address (R50). -/
abbrev Memory := List Host.Cell

/-- The whole state. R20: `regs`, `flags`, `sp`, `pc`, `ime`, `eiPending`, `mode`. The rest is what lies
behind the parameters: the cells and the kinds of address of `Bus` (R52), the interrupt controller
(R302), the history (R53, R54; newest event first) and the platform's acts to come (R348), one
entry for each step. -/
structure State where
  regs : Regs
  flags : Flags
  sp : Word
  pc : Word
  ime : Bool
  eiPending : Bool
  mode : Mode
  mem : Memory
  bus : List Region
  intCtl : IntCtl
  history : List BusEvent
  arrivals : List Arrival
  deriving DecidableEq, Repr

/-- Why the machine stops with a fault. -/
inductive Fault where
  /-- R300: the machine is in mode Locked after the unassigned byte `op`; it makes no further
  transition. Raised by `step` in mode Locked. Safe: the hardware hangs there too. -/
  | illegalOpcode (op : Byte)
  deriving DecidableEq, Repr

/-- Why the model gives a step no meaning. -/
inductive Refusal where
  /-- An instruction without a meaning in `exec`. No arm answers with it. Safe. -/
  | notModelled (mnemonic : String)
  /-- R202, U8: HALT with IME = 0 while a request is pending and enabled. Raised by HALT. Safe: the
  hardware goes on in a way the spec does not give. -/
  | haltWithRequestPending
  /-- R308, U9: an interrupt entry whose push writes the byte of the enable mask. Raised by interrupt
  entry. Safe: the hardware goes on in a way the spec does not give. -/
  | entryOverwritesEnableMask
  deriving DecidableEq, Repr

/-- What an instruction or a step answers. -/
abbrev Result := Host.Outcome State Fault Refusal

/-- The registers that `ResetState` leaves unspecified (R340), at the value the model names for its
reset state: zero. DESIGN CHOICE, unsafe: log entry 1. -/
def zeroRegs : Regs := ⟨0, 0, 0, 0, 0, 0, 0⟩

/-- The four flags at the value the model names for its reset state: 0. DESIGN CHOICE, unsafe: log
entry 1. -/
def zeroFlags : Flags := ⟨false, false, false, false⟩

/-- The instance `bare` of R340: pc = 0000h, IME = 0; the unspecified registers as log entry 1. -/
def bareReset : ResetState := ⟨zeroRegs, zeroFlags, 0x0000#16, 0x0000#16, false⟩

/-- The instance `dmg_post_boot` of R340: the state the original Game Boy's boot ROM hands over. -/
def dmgPostBoot : ResetState :=
  ⟨⟨0x01#8, 0x00#8, 0x13#8, 0x00#8, 0xD8#8, 0x01#8, 0x4D#8⟩, ⟨true, false, true, true⟩,
    0xFFFE#16, 0x0100#16, false⟩

/-- The machine right after reset: R340's instance `bare`, the default bus `flat` of R52 with no cell
listed, the Game Boy's controller with IE = 00h and no request (R344, log entry 2), an empty
history, and a platform that does nothing more (log entry 7). -/
def State.reset : State :=
  { regs := bareReset.regs
    flags := bareReset.flags
    sp := bareReset.sp
    pc := bareReset.pc
    ime := bareReset.ime
    eiPending := false
    mode := .running
    mem := []
    bus := Config.flatBus
    intCtl := .gameBoy 0x00#8 0#5
    history := []
    arrivals := [] }

end Sys2Proof.Machine
end

