-- ==== Sys2Proof/Machine/Flags.lean ====
section
/-!
DEFINITION. The register F and every computation of a result with its flags: spec/10_state.md R25,
R26; spec/40_alu8.md R121 to R123, R138 to R142; spec/41_alu16.md R160, R161; spec/42_bit.md R170;
spec/46_rotate_shift.md R250. Additions and subtractions are over the integers, as the rules write
them, and reduced at the end.
-/

namespace Sys2Proof.Machine

/-! ## F -/

/-- One flag as a number, for the carry that ADC, SBC and the rotates take in. -/
def bitNat (b : Bool) : Nat := if b then 1 else 0

/-- One flag as a byte: 00h or 01h. -/
def bitByte (b : Bool) : Byte := if b then 0x01#8 else 0x00#8

/-- F: Z, N, H, C in bits 7 to 4, bits 3 to 0 zero (R25, R26). -/
def packFlags (f : Flags) : Byte :=
  BitVec.ofBool f.z ++ BitVec.ofBool f.n ++ BitVec.ofBool f.h ++ BitVec.ofBool f.c ++ 0#4

/-- What a write of `v` to F leaves: bits 3 to 0 are dropped (R26). -/
def unpackFlags (v : Byte) : Flags :=
  ⟨v.getLsbD 7, v.getLsbD 6, v.getLsbD 5, v.getLsbD 4⟩

/-! ## 8-bit addition, subtraction, logic -/

/-- `add8` of R121. -/
def add8 (a y : Byte) (c : Bool) : Byte × Flags :=
  let r := a.toNat + y.toNat + bitNat c
  let res := BitVec.ofNat 8 r
  (res,
    { z := res == 0
      n := false
      h := decide (a.toNat % 16 + y.toNat % 16 + bitNat c > 0x0F)
      c := decide (r > 0xFF) })

/-- `sub8` of R122. -/
def sub8 (a y : Byte) (c : Bool) : Byte × Flags :=
  let r : Int := (a.toNat : Int) - y.toNat - bitNat c
  let res := BitVec.ofInt 8 r
  (res,
    { z := res == 0
      n := true
      h := decide (a.toNat % 16 < y.toNat % 16 + bitNat c)
      c := decide (a.toNat < y.toNat + bitNat c) })

/-- `and8` of R123, with Z X, N 0, H 1, C 0. -/
def and8 (a y : Byte) : Byte × Flags :=
  (a &&& y, ⟨(a &&& y) == 0, false, true, false⟩)

/-- `or8` of R123, with Z X, N 0, H 0, C 0. -/
def or8 (a y : Byte) : Byte × Flags :=
  (a ||| y, ⟨(a ||| y) == 0, false, false, false⟩)

/-- `xor8` of R123, with Z X, N 0, H 0, C 0. -/
def xor8 (a y : Byte) : Byte × Flags :=
  (a ^^^ y, ⟨(a ^^^ y) == 0, false, false, false⟩)

/-- R141, R142: v + 1, with Z X, N 0, H X; C stays as in `f`. -/
def inc8 (v : Byte) (f : Flags) : Byte × Flags :=
  let res := v + 1
  (res, { f with z := res == 0, n := false, h := decide (v.toNat % 16 = 0x0F) })

/-- R139, R140: v - 1, with Z X, N 1, H X; C stays as in `f`. -/
def dec8 (v : Byte) (f : Flags) : Byte × Flags :=
  let res := v - 1
  (res, { f with z := res == 0, n := true, h := decide (v.toNat % 16 = 0) })

/-! ## DAA (R138) -/

/-- Whether the correction of DAA takes in 06h. -/
def daaLow (a : Byte) (f : Flags) : Bool := f.h || (!f.n && decide (a.toNat % 16 > 0x09))

/-- Whether the correction of DAA takes in 60h; it is also the carry after DAA. Both tests look at A
before any correction. -/
def daaHigh (a : Byte) (f : Flags) : Bool := f.c || (!f.n && decide (a.toNat > 0x99))

/-- The correction u of DAA. -/
def daaCorrection (a : Byte) (f : Flags) : Byte :=
  (if daaLow a f then 0x06#8 else 0x00#8) + (if daaHigh a f then 0x60#8 else 0x00#8)

/-- The algorithm of R138: A corrected up after an addition, down after a subtraction; N stays. -/
def daa8 (a : Byte) (f : Flags) : Byte × Flags :=
  let res := if f.n then a - daaCorrection a f else a + daaCorrection a f
  (res, { f with z := res == 0, h := false, c := daaHigh a f })

/-! ## 16-bit additions -/

/-- R160: HL + y, with Z -, N 0, H the carry out of bit 11, C the carry out of bit 15. -/
def add16 (a y : Word) (f : Flags) : Word × Flags :=
  let r := a.toNat + y.toNat
  (BitVec.ofNat 16 r,
    { f with
      n := false
      h := decide (a.toNat % 0x1000 + y.toNat % 0x1000 > 0x0FFF)
      c := decide (r > 0xFFFF) })

/-- R161, R220: SP plus the signed offset e, with Z 0, N 0, and the carries out of bits 3 and 7 of the
unsigned addition of SP's low byte and the raw offset byte. -/
def addOffset (s : Word) (e : Byte) : Word × Flags :=
  (s + e.signExtend 16,
    { z := false
      n := false
      h := decide (s.toNat % 16 + e.toNat % 16 > 0x0F)
      c := decide (s.toNat % 256 + e.toNat > 0xFF) })

/-! ## Bits -/

/-- R170, R171: Z the complement of bit k, N 0, H 1, C -. -/
def bitTest (v : Byte) (k : BitVec 3) (f : Flags) : Flags :=
  { f with z := !v.getLsbD k.toNat, n := false, h := true }

/-- R172, R173: v with bit k 0. -/
def clearBit (v : Byte) (k : BitVec 3) : Byte := v &&& ~~~(1#8 <<< k.toNat)

/-- R174, R175: v with bit k 1. -/
def setBit (v : Byte) (k : BitVec 3) : Byte := v ||| (1#8 <<< k.toNat)

/-! ## Rotates, shifts, swap: result and carry-out (R250). Each takes the old carry; only `rlOp` and
`rrOp` read it. -/

/-- Rotate left. -/
def rlcOp (x : Byte) (_cin : Bool) : Byte × Bool := ((x <<< 1) ||| bitByte (x.getLsbD 7), x.getLsbD 7)

/-- Rotate right. -/
def rrcOp (x : Byte) (_cin : Bool) : Byte × Bool :=
  ((x >>> 1) ||| (bitByte (x.getLsbD 0) <<< 7), x.getLsbD 0)

/-- Rotate left through carry. -/
def rlOp (x : Byte) (cin : Bool) : Byte × Bool := ((x <<< 1) ||| bitByte cin, x.getLsbD 7)

/-- Rotate right through carry. -/
def rrOp (x : Byte) (cin : Bool) : Byte × Bool := ((x >>> 1) ||| (bitByte cin <<< 7), x.getLsbD 0)

/-- Shift left, bit 0 becomes 0. -/
def slaOp (x : Byte) (_cin : Bool) : Byte × Bool := (x <<< 1, x.getLsbD 7)

/-- Shift right, bit 7 keeps its value. -/
def sraOp (x : Byte) (_cin : Bool) : Byte × Bool := ((x >>> 1) ||| (x &&& 0x80#8), x.getLsbD 0)

/-- Shift right, bit 7 becomes 0. -/
def srlOp (x : Byte) (_cin : Bool) : Byte × Bool := (x >>> 1, x.getLsbD 0)

/-- Exchange the nibbles; the carry-out is 0. -/
def swapOp (x : Byte) (_cin : Bool) : Byte × Bool := ((x <<< 4) ||| (x >>> 4), false)

/-- The flags of the sixteen CBh forms: Z X, N 0, H 0, C the carry-out (R250). -/
def shiftFlags (r : Byte × Bool) : Flags := ⟨r.1 == 0, false, false, r.2⟩

/-- The flags of RLA, RLCA, RRA, RRCA: Z 0, N 0, H 0, C the carry-out (R250). -/
def shiftFlagsA (r : Byte × Bool) : Flags := ⟨false, false, false, r.2⟩

end Sys2Proof.Machine
end

