-- ==== Sys2Proof/Machine/Ops.lean ====
section
/-!
DEFINITION. The named operations over memory, the interrupt controller, the registers and the
stack (spec/10_state.md, spec/20_memory.md), interrupt entry and the fault IllegalOpcode
(spec/60_exceptions.md R308, R300), the return from a subroutine or handler, and reset (R341).
A read is two functions: the value it returns and the state after it, which has the read in its
history.
-/

namespace Sys2Proof.Machine

/-! ## The memory list -/

/-- The byte of one cell. -/
def Memory.get (m : Memory) (a : Nat) : Byte :=
  match m with
  | [] => Config.unlistedByte
  | (k, v) :: rest => if k = a then v else Memory.get rest a

/-- The memory with one cell written; a cell that holds `Config.unlistedByte` is not listed. -/
def Memory.set (m : Memory) (a : Nat) (v : Byte) : Memory :=
  match m with
  | [] => if v = Config.unlistedByte then [] else [(a, v)]
  | (k, w) :: rest =>
    if a < k then (if v = Config.unlistedByte then (k, w) :: rest else (a, v) :: (k, w) :: rest)
    else if a = k then (if v = Config.unlistedByte then rest else (a, v) :: rest)
    else (k, w) :: Memory.set rest a v

/-- Addresses strictly rising from `low` up and below 65536, no cell equal to what an unlisted one
holds. -/
def Memory.wfFrom (low : Nat) (m : Memory) : Bool :=
  match m with
  | [] => true
  | (k, v) :: rest =>
    decide (low ≤ k) && decide (k < 65536) && decide (v ≠ Config.unlistedByte) &&
      Memory.wfFrom (k + 1) rest

/-- The canonical form of a memory. -/
def Memory.wf (m : Memory) : Bool := Memory.wfFrom 0 m

/-! ## The interrupt controller (R302, R303) -/

/-- The address of IE (R303). -/
def ieAddr : Word := 0xFFFF#16

/-- The address of IF (R303). -/
def ifAddr : Word := 0xFF0F#16

/-- What a CPU read of a register of the controller returns; `none` at every other address. Bits 7 to
5 of IF are a free value (R303, log entry 5). -/
def IntCtl.readRegister (c : IntCtl) (h : List BusEvent) (a : Word) : Option Byte :=
  match c with
  | .gameBoy ie irq =>
    if a = ieAddr then some ie
    else if a = ifAddr then some (Config.ifUnusedBits h ++ irq)
    else none
  | .sources _ _ => none

/-- The byte that a register of the controller holds: IE, and IF with its unimplemented bits 0. -/
def IntCtl.register (c : IntCtl) (a : Word) : Option Byte :=
  match c with
  | .gameBoy ie irq =>
    if a = ieAddr then some ie else if a = ifAddr then some (0#3 ++ irq) else none
  | .sources _ _ => none

/-- A CPU write to a register of the controller: all of IE, the five bits of IF (R303); `none` at
every other address. -/
def IntCtl.writeRegister (c : IntCtl) (a : Word) (v : Byte) : Option IntCtl :=
  match c with
  | .gameBoy ie irq =>
    if a = ieAddr then some (.gameBoy v irq)
    else if a = ifAddr then some (.gameBoy ie (v.extractLsb' 0 5))
    else none
  | .sources _ _ => none

/-- The number of the lowest set bit of `IE & IF & 1Fh` (R303). -/
def lowestRequest (m : BitVec 5) : Option Nat :=
  if m.getLsbD 0 then some 0
  else if m.getLsbD 1 then some 1
  else if m.getLsbD 2 then some 2
  else if m.getLsbD 3 then some 3
  else if m.getLsbD 4 then some 4
  else none

/-- The first source of a list that is raised and enabled, numbered from `n`. -/
def firstDue (l : List Source) (n : Nat) : Option Nat :=
  match l with
  | [] => none
  | x :: rest => if x.enabled && x.raised then some n else firstDue rest (n + 1)

/-- `IntCtl.pending()` (R302, R303). -/
def IntCtl.pending (c : IntCtl) : Option Nat :=
  match c with
  | .gameBoy ie irq => lowestRequest (ie.extractLsb' 0 5 &&& irq)
  | .sources l _ => firstDue l 0

/-- `IntCtl.acknowledge(n)`: request n, and only that one, is cleared (R302, R303). -/
def IntCtl.acknowledge (c : IntCtl) (n : Nat) : IntCtl :=
  match c with
  | .gameBoy ie irq => .gameBoy ie (irq &&& ~~~(1#5 <<< n))
  | .sources l m => .sources (l.modify n fun x => { x with raised := false }) m

/-- `IntCtl.vector(n)`: 0040h + 8 * n in the Game Boy's instance (R303). A controller given by its
sources has no source beyond its list; there the model answers 0000h, which `pending` never asks for. -/
def IntCtl.vector (c : IntCtl) (n : Nat) : Word :=
  match c with
  | .gameBoy _ _ => BitVec.ofNat 16 (0x0040 + 8 * n)
  | .sources l _ =>
    match l[n]? with
    | some x => x.vector
    | none => 0x0000#16

/-- The address of the byte that holds the enable mask: FFFFh in the Game Boy's instance (R308). -/
def IntCtl.maskAddr (c : IntCtl) : Option Word :=
  match c with
  | .gameBoy _ _ => some ieAddr
  | .sources _ m => m

/-- One act of the platform on its controller. A device of the Game Boy raises a request by setting
its bit of IF; it does nothing else to the controller (R303). -/
def IntCtl.event (c : IntCtl) (e : IrqEvent) : IntCtl :=
  match c, e with
  | .gameBoy ie irq, .raise n => .gameBoy ie (irq ||| (1#5 <<< n))
  | .gameBoy ie irq, .withdraw _ => .gameBoy ie irq
  | .gameBoy ie irq, .enable _ _ => .gameBoy ie irq
  | .sources l m, .raise n => .sources (l.modify n fun x => { x with raised := true }) m
  | .sources l m, .withdraw n => .sources (l.modify n fun x => { x with raised := false }) m
  | .sources l m, .enable n on => .sources (l.modify n fun x => { x with enabled := on }) m

/-- The controller right after a reset, before the events of the same boundary. The Game Boy's IE
reads 00h (R344). Which requests are raised, and which sources of another controller are enabled,
R344 leaves to the platform: the model clears them here, and the events of the same arrival set
what the platform leaves raised or enabled. DESIGN CHOICE, log entry 25. -/
def IntCtl.afterReset (c : IntCtl) : IntCtl :=
  match c with
  | .gameBoy _ _ => .gameBoy 0x00#8 0#5
  | .sources l m => .sources (l.map fun x => { x with enabled := false, raised := false }) m

/-! ## The bus (R52 to R55) -/

/-- Whether a region covers an address. -/
def regionCovers (r : Region) (a : Word) : Bool :=
  decide (r.first ≤ a.toNat) && decide (a.toNat ≤ r.last)

/-- The kind of an address in a list of regions: that of the first region that covers it, RAM where
none does (R52, "flat"). -/
def kindIn (l : List Region) (a : Word) : BusKind :=
  match l with
  | [] => .ram
  | r :: rest => if regionCovers r a then r.kind else kindIn rest a

/-- `Bus.kind` (R52). -/
def State.kindAt (s : State) (a : Word) : BusKind := kindIn s.bus a

/-- The byte an address holds: a register of the interrupt controller, else the memory cell. -/
def State.byteAt (s : State) (a : Word) : Byte :=
  match s.intCtl.register a with
  | some v => v
  | none => s.mem.get a.toNat

/-- The byte `MemRead(a, 1)` returns (R53): a register of the interrupt controller where one stands
(R303), else by the kind of the address the cell or a free draw (R52). -/
def State.readByte (s : State) (a : Word) : Byte :=
  match s.intCtl.readRegister s.history a with
  | some v => v
  | none =>
    match s.kindAt a with
    | .ram => s.mem.get a.toNat
    | .rom => s.mem.get a.toNat
    | .device => Config.busDraw s.history a
    | .unmapped => Config.busDraw s.history a

/-- The state after `MemRead(a, 1)`: the event is in the history (R53). -/
def State.afterRead (s : State) (a : Word) : State :=
  { s with history := .read a (s.readByte a) :: s.history }

/-- `MemWrite(a, 1, v)` (R54): a register of the interrupt controller takes it where one stands
(R303); else RAM takes it, and ROM, DEVICE and OPEN change nothing (R52). The event is in the history. -/
def State.memWrite (s : State) (a : Word) (v : Byte) : State :=
  match s.intCtl.writeRegister a v with
  | some c => { s with intCtl := c, history := .write a v :: s.history }
  | none =>
    match s.kindAt a with
    | .ram => { s with mem := s.mem.set a.toNat v, history := .write a v :: s.history }
    | .rom => { s with history := .write a v :: s.history }
    | .device => { s with history := .write a v :: s.history }
    | .unmapped => { s with history := .write a v :: s.history }

/-- `MemWrite(a, 2, v)` (R55): the low byte at `a`, then the high byte at `a + 1`. -/
def State.memWrite16 (s : State) (a v : Word) : State :=
  (s.memWrite a (loByte v)).memWrite (a + 1) (hiByte v)

/-! ## Registers (R21, R22, R26) -/

/-- `x[r]` of an 8-bit register. -/
def State.r8 (s : State) (r : R8) : Byte :=
  match r with
  | .a => s.regs.a
  | .b => s.regs.b
  | .c => s.regs.c
  | .d => s.regs.d
  | .e => s.regs.e
  | .h => s.regs.h
  | .l => s.regs.l

/-- The register file with one 8-bit register written. -/
def Regs.set8 (x : Regs) (r : R8) (v : Byte) : Regs :=
  match r with
  | .a => { x with a := v }
  | .b => { x with b := v }
  | .c => { x with c := v }
  | .d => { x with d := v }
  | .e => { x with e := v }
  | .h => { x with h := v }
  | .l => { x with l := v }

/-- `x[r] <- v` of an 8-bit register. -/
def State.setReg8 (s : State) (r : R8) (v : Byte) : State := { s with regs := s.regs.set8 r v }

/-- The pair BC, B the high byte (R22). -/
def State.bc (s : State) : Word := wordOf s.regs.b s.regs.c

/-- The pair DE (R22). -/
def State.de (s : State) : Word := wordOf s.regs.d s.regs.e

/-- The pair HL (R22). -/
def State.hl (s : State) : Word := wordOf s.regs.h s.regs.l

/-- The register F: four flags, four zeros (R26). -/
def State.f (s : State) : Byte := packFlags s.flags

/-- The pair AF (R22). -/
def State.af (s : State) : Word := wordOf s.regs.a s.f

/-- `x[BC] <- v`: both halves (R22). -/
def State.setBC (s : State) (v : Word) : State :=
  { s with regs := { s.regs with b := hiByte v, c := loByte v } }

/-- `x[DE] <- v` (R22). -/
def State.setDE (s : State) (v : Word) : State :=
  { s with regs := { s.regs with d := hiByte v, e := loByte v } }

/-- `x[HL] <- v` (R22). -/
def State.setHL (s : State) (v : Word) : State :=
  { s with regs := { s.regs with h := hiByte v, l := loByte v } }

/-- `x[SP] <- v` (R23). -/
def State.setSP (s : State) (v : Word) : State := { s with sp := v }

/-- `x[AF] <- v`: bits 3..0 of the low byte are dropped (R26). -/
def State.setAF (s : State) (v : Word) : State :=
  { s with regs := { s.regs with a := hiByte v }, flags := unpackFlags (loByte v) }

/-- `x[r16]`, table `r16` (R84). -/
def State.r16 (s : State) (p : R16) : Word :=
  match p with
  | .bc => s.bc
  | .de => s.de
  | .hl => s.hl
  | .sp => s.sp

/-- `x[r16] <- v`, table `r16` (R84). -/
def State.setReg16 (s : State) (p : R16) (v : Word) : State :=
  match p with
  | .bc => s.setBC v
  | .de => s.setDE v
  | .hl => s.setHL v
  | .sp => s.setSP v

/-- `x[r16]`, table `r16stk` (R84). -/
def State.r16Stk (s : State) (p : R16Stk) : Word :=
  match p with
  | .bc => s.bc
  | .de => s.de
  | .hl => s.hl
  | .af => s.af

/-- `x[r16] <- v`, table `r16stk` (R84). -/
def State.setReg16Stk (s : State) (p : R16Stk) (v : Word) : State :=
  match p with
  | .bc => s.setBC v
  | .de => s.setDE v
  | .hl => s.setHL v
  | .af => s.setAF v

/-- The flags written as a whole. -/
def State.setFlags (s : State) (f : Flags) : State := { s with flags := f }

/-- `pc <- target` (R24). -/
def State.jump (s : State) (target : Word) : State := { s with pc := target }

/-- `pc <- (pc + n) mod 65536` (R24). -/
def State.advance (s : State) (n : Nat) : State := { s with pc := s.pc + BitVec.ofNat 16 n }

/-! ## The stack (R56, R57) -/

/-- `push16(v)`: the high byte at SP - 1, then the low byte at SP - 2 (R56). -/
def State.push16 (s : State) (v : Word) : State :=
  let s1 := (s.setSP (s.sp - 1)).memWrite (s.sp - 1) (hiByte v)
  (s1.setSP (s.sp - 2)).memWrite (s.sp - 2) (loByte v)

/-- The word `pop16()` returns: the low byte read at SP, then the high byte at SP + 1 (R57). -/
def State.popValue (s : State) : Word :=
  wordOf ((s.afterRead s.sp).readByte (s.sp + 1)) (s.readByte s.sp)

/-- The state after `pop16()`: both reads made, SP raised by 2 (R57). -/
def State.afterPop (s : State) : State :=
  ((s.afterRead s.sp).afterRead (s.sp + 1)).setSP (s.sp + 2)

/-! ## Entering and leaving an interrupt; the fault; reset -/

/-- Interrupt entry for request n (R308): IME and the pending EI cleared, the request acknowledged, the
pc pushed, the pc at the vector. Refused where the push would write the byte of the enable mask. -/
def State.enterInterrupt (s : State) (n : Nat) : Result :=
  if s.intCtl.maskAddr = some (s.sp - 1) ∨ s.intCtl.maskAddr = some (s.sp - 2) then
    .refused .entryOverwritesEnableMask
  else
    .next ((State.push16
      { s with ime := false, eiPending := false, intCtl := s.intCtl.acknowledge n } s.pc).jump
        (s.intCtl.vector n))

/-- The return of RET, RET cc and RETI: `pc <- pop16()` (R190, R193). -/
def State.returnFromStack (s : State) : State := s.afterPop.jump s.popValue

/-- `raise IllegalOpcode(b)` (R300): mode Locked with the byte recorded; nothing else changes. -/
def State.raiseIllegalOpcode (s : State) (op : Byte) : State := { s with mode := .locked op }

/-- The reset event (R341): every item of CPU state takes its `ResetState` value, ei_pending 0, mode
Running (R340). Memory keeps what it holds (R344). The interrupt controller is as
`IntCtl.afterReset` says: IE 00h is R344's, the rest the model's choice (log entry 25). -/
def State.resetTo (s : State) (r : ResetState) : State :=
  { s with
    regs := r.regs
    flags := r.flags
    sp := r.sp
    pc := r.pc
    ime := r.ime
    eiPending := false
    mode := .running
    intCtl := s.intCtl.afterReset }

end Sys2Proof.Machine
end

