-- ==== Sys2Proof/Machine/Operands.lean ====
section
/-!
DEFINITION. The operand forms that instructions share: the three sources of the A-operations
(spec/40_alu8.md R120), the read-modify-write forms (R60), conditions (spec/43_control.md R180),
relative targets (R188), the high page (spec/45_load.md R210) and the pointers (R84).
-/

namespace Sys2Proof.Machine

/-! ## Operations on A (R120) -/

/-- A and the flags take the result of an operation on A. -/
def State.setAResult (s : State) (r : Byte × Flags) : State :=
  { s with regs := { s.regs with a := r.1 }, flags := r.2 }

/-- An operation on A and the byte y, for an instruction of n bytes. -/
def aluA (op : Byte → Byte → Byte × Flags) (y : Byte) (n : Nat) (s : State) : State :=
  (s.setAResult (op s.regs.a y)).advance n

/-- An operation on A and the byte at HL, read once (R120). -/
def aluAHL (op : Byte → Byte → Byte × Flags) (s : State) : State :=
  aluA op (s.readByte s.hl) 1 (s.afterRead s.hl)

/-- A comparison of A with the byte y: the flags are written, A is not (R134 to R136). -/
def compareA (y : Byte) (n : Nat) (s : State) : State :=
  (s.setFlags (sub8 s.regs.a y false).2).advance n

/-! ## Read-modify-write (R60) -/

/-- A register replaced by the result of an operation that also gives the flags. -/
def modifyR8 (op : Byte → Byte × Flags) (r : R8) (n : Nat) (s : State) : State :=
  ((s.setReg8 r (op (s.r8 r)).1).setFlags (op (s.r8 r)).2).advance n

/-- The byte at HL read once and replaced once by the result of an operation that also gives the
flags (R60). -/
def modifyHL (op : Byte → Byte × Flags) (n : Nat) (s : State) : State :=
  (((s.afterRead s.hl).memWrite s.hl (op (s.readByte s.hl)).1).setFlags
    (op (s.readByte s.hl)).2).advance n

/-- A rotate or shift as such an operation: the old carry goes in, the flags of the CBh forms come
out (R250). -/
def shiftOp (op : Byte → Bool → Byte × Bool) (f : Flags) (v : Byte) : Byte × Flags :=
  ((op v f.c).1, shiftFlags (op v f.c))

/-- A rotate of A by a one-byte form, with Z 0 (R250). -/
def rotateA (op : Byte → Bool → Byte × Bool) (s : State) : State :=
  (s.setAResult ((op s.regs.a s.flags.c).1, shiftFlagsA (op s.regs.a s.flags.c))).advance 1

/-! ## Addresses -/

/-- `hi(v) = FF00h + zext_16(v)` (R210). -/
def highPage (v : Byte) : Word := 0xFF00#16 + v.zeroExtend 16

/-- The pointer of `LD (r16), A` and `LD A, (r16)` (R216, R219). -/
def State.pointer (s : State) (p : R16Ptr) : Word :=
  match p with
  | .bc => s.bc
  | .de => s.de

/-- `jr_target(pc, e)` (R188). -/
def jrTarget (pc : Word) (e : Byte) : Word := pc + 2 + e.signExtend 16

/-! ## Conditions -/

/-- `cond(cc)` (R180). -/
def condHolds (cc : Cond) (f : Flags) : Bool :=
  match cc with
  | .nz => !f.z
  | .z => f.z
  | .nc => !f.c
  | .c => f.c

end Sys2Proof.Machine
end

