-- ==== Sys2Proof/Machine/Boundary.lean ====
section
/-!
DEFINITION. What happens around an instruction: the platform's acts at a boundary
(spec/70_reset_and_hazards.md R348), the check for an interrupt (spec/60_exceptions.md R306, R307),
the fetch (spec/30_encoding.md R95, spec/20_memory.md R60, R66), and the delayed effect of EI.
-/

namespace Sys2Proof.Machine

/-- A boundary at which the platform does nothing. -/
def quietArrival : Arrival := ⟨none, [], false⟩

/-- What the platform does at this boundary: the head of its list, nothing once the list is empty. -/
def State.arrival (s : State) : Arrival :=
  match s.arrivals with
  | [] => quietArrival
  | x :: _ => x

/-- The state after the arrival at this boundary: taken off the list, the reset performed (R341), then
the controller's events in order (R302, R303). After a reset these events say what the platform
leaves raised and enabled. The order and the place are the model's choice: log entries 13, 25. -/
def State.afterArrival (s : State) : State :=
  let x := s.arrival
  let s1 := { s with arrivals := s.arrivals.tail }
  let s2 :=
    match x.reset with
    | some r => s1.resetTo r
    | none => s1
  { s2 with intCtl := x.irqs.foldl IntCtl.event s2.intCtl }

/-- The request to enter at this boundary, if there is one: IME = 1 and `IntCtl.pending()` (R306). -/
def State.interruptDue (s : State) : Option Nat := if s.ime then s.intCtl.pending else none

/-- How many bytes the execution of the instruction that begins with `op` reads. STOP's second byte is
skipped unread (R204). -/
def fetchCount (op : Byte) : Nat := if op = 0x10#8 then 1 else lengthOf op

/-- The instruction at pc and the state after its bytes have been read, at rising addresses (R60, R95). -/
def State.fetch (s : State) : Instr × State :=
  let op := s.readByte s.pc
  let s1 := s.afterRead s.pc
  match fetchCount op with
  | 1 => (decodeBytes op 0 0, s1)
  | 2 => (decodeBytes op (s1.readByte (s.pc + 1)) 0, s1.afterRead (s.pc + 1))
  | _ =>
    let s2 := s1.afterRead (s.pc + 1)
    (decodeBytes op (s1.readByte (s.pc + 1)) (s2.readByte (s.pc + 2)), s2.afterRead (s.pc + 2))

/-- Whether the delayed effect of EI follows the instruction: not after DI (R306), and not after an
unassigned opcode, which executes no instruction and changes nothing but the mode (R300). -/
def takesPendingEI (i : Instr) : Bool :=
  match i with
  | .di => false
  | .unassigned _ => false
  | _ => true

/-- The last line of R306: IME becomes 1 when the instruction after an EI has completed. `p` is
ei_pending as it was before the instruction. -/
def completeEI (p : Bool) (i : Instr) (r : Result) : Result :=
  match r with
  | .next t => .next (if p && takesPendingEI i then { t with ime := true } else t)
  | .fault e => .fault e
  | .refused e => .refused e

/-- Mode Stopped: left when `StopWake` occurs, else no transition (R204, R306). -/
def State.stoppedStep (s : State) (stopWake : Bool) : State :=
  if stopWake then { s with mode := .running } else s

/-- Mode Halted: left when a request is pending and enabled, whatever IME is; else time passes (R310). -/
def State.haltedStep (s : State) : State :=
  if s.intCtl.pending = none then s else { s with mode := .running }

end Sys2Proof.Machine
end

