-- ==== Sys2Proof/Machine/Alu16.lean ====
section
/-!
DEFINITION. The 16-bit arithmetic instructions (spec/41_alu16.md).
-/

namespace Sys2Proof.Machine

/-- `ADD HL, r16` (R160). -/
def execAddHLR16 (p : R16) (s : State) : Result :=
  .next (((s.setHL (add16 s.hl (s.r16 p) s.flags).1).setFlags (add16 s.hl (s.r16 p) s.flags).2).advance 1)

/-- `ADD SP, e8` (R161). -/
def execAddSPE8 (e : Byte) (s : State) : Result :=
  .next (((s.setSP (addOffset s.sp e).1).setFlags (addOffset s.sp e).2).advance 2)

/-- `DEC r16` (R162): no flag. -/
def execDecR16 (p : R16) (s : State) : Result :=
  .next ((s.setReg16 p (s.r16 p - 1)).advance 1)

/-- `INC r16` (R163): no flag. -/
def execIncR16 (p : R16) (s : State) : Result :=
  .next ((s.setReg16 p (s.r16 p + 1)).advance 1)


end Sys2Proof.Machine
end

