-- ==== Sys2Proof/Machine/Alu8.lean ====
section
/-!
DEFINITION. The 8-bit arithmetic and logic instructions (spec/40_alu8.md).
-/

namespace Sys2Proof.Machine

/-- `ADC A, (HL)` (R124). -/
def execAdcHL (s : State) : Result :=
  .next (aluAHL (fun a y => add8 a y s.flags.c) s)

/-- `ADC A, n8` (R125). -/
def execAdcN8 (n : Byte) (s : State) : Result :=
  .next (aluA (fun a y => add8 a y s.flags.c) n 2 s)

/-- `ADC A, r8` (R126). -/
def execAdcR8 (r : R8) (s : State) : Result :=
  .next (aluA (fun a y => add8 a y s.flags.c) (s.r8 r) 1 s)

/-- `ADD A, (HL)` (R127). -/
def execAddHL (s : State) : Result :=
  .next (aluAHL (fun a y => add8 a y false) s)

/-- `ADD A, n8` (R128). -/
def execAddN8 (n : Byte) (s : State) : Result :=
  .next (aluA (fun a y => add8 a y false) n 2 s)

/-- `ADD A, r8` (R129). -/
def execAddR8 (r : R8) (s : State) : Result :=
  .next (aluA (fun a y => add8 a y false) (s.r8 r) 1 s)

/-- `AND (HL)` (R130). -/
def execAndHL (s : State) : Result :=
  .next (aluAHL and8 s)

/-- `AND n8` (R131). -/
def execAndN8 (n : Byte) (s : State) : Result :=
  .next (aluA and8 n 2 s)

/-- `AND r8` (R132). -/
def execAndR8 (r : R8) (s : State) : Result :=
  .next (aluA and8 (s.r8 r) 1 s)

/-- `CCF`: C complemented, N 0, H 0, Z - (R133). -/
def execCcf (s : State) : Result :=
  .next ((s.setFlags { s.flags with n := false, h := false, c := !s.flags.c }).advance 1)

/-- `CP (HL)` (R134). -/
def execCpHL (s : State) : Result :=
  .next (compareA (s.readByte s.hl) 1 (s.afterRead s.hl))

/-- `CP n8` (R135). -/
def execCpN8 (n : Byte) (s : State) : Result :=
  .next (compareA n 2 s)

/-- `CP r8` (R136). -/
def execCpR8 (r : R8) (s : State) : Result :=
  .next (compareA (s.r8 r) 1 s)

/-- `CPL`: every bit of A inverted, N 1, H 1, Z and C - (R137). -/
def execCpl (s : State) : Result :=
  .next ((s.setAResult (~~~s.regs.a, { s.flags with n := true, h := true })).advance 1)

/-- `DAA` (R138). -/
def execDaa (s : State) : Result :=
  .next ((s.setAResult (daa8 s.regs.a s.flags)).advance 1)

/-- `DEC (HL)` (R139). -/
def execDecHL (s : State) : Result :=
  .next (modifyHL (fun v => dec8 v s.flags) 1 s)

/-- `DEC r8` (R140). -/
def execDecR8 (r : R8) (s : State) : Result :=
  .next (modifyR8 (fun v => dec8 v s.flags) r 1 s)

/-- `INC (HL)` (R141). -/
def execIncHL (s : State) : Result :=
  .next (modifyHL (fun v => inc8 v s.flags) 1 s)

/-- `INC r8` (R142). -/
def execIncR8 (r : R8) (s : State) : Result :=
  .next (modifyR8 (fun v => inc8 v s.flags) r 1 s)

/-- `OR (HL)` (R143). -/
def execOrHL (s : State) : Result :=
  .next (aluAHL or8 s)

/-- `OR n8` (R144). -/
def execOrN8 (n : Byte) (s : State) : Result :=
  .next (aluA or8 n 2 s)

/-- `OR r8` (R145). -/
def execOrR8 (r : R8) (s : State) : Result :=
  .next (aluA or8 (s.r8 r) 1 s)

/-- `SBC A, (HL)` (R146). -/
def execSbcHL (s : State) : Result :=
  .next (aluAHL (fun a y => sub8 a y s.flags.c) s)

/-- `SBC A, n8` (R147). -/
def execSbcN8 (n : Byte) (s : State) : Result :=
  .next (aluA (fun a y => sub8 a y s.flags.c) n 2 s)

/-- `SBC A, r8` (R148). -/
def execSbcR8 (r : R8) (s : State) : Result :=
  .next (aluA (fun a y => sub8 a y s.flags.c) (s.r8 r) 1 s)

/-- `SCF`: C 1, N 0, H 0, Z - (R149). -/
def execScf (s : State) : Result :=
  .next ((s.setFlags { s.flags with n := false, h := false, c := true }).advance 1)

/-- `SUB (HL)` (R150). -/
def execSubHL (s : State) : Result :=
  .next (aluAHL (fun a y => sub8 a y false) s)

/-- `SUB n8` (R151). -/
def execSubN8 (n : Byte) (s : State) : Result :=
  .next (aluA (fun a y => sub8 a y false) n 2 s)

/-- `SUB r8` (R152). -/
def execSubR8 (r : R8) (s : State) : Result :=
  .next (aluA (fun a y => sub8 a y false) (s.r8 r) 1 s)

/-- `XOR (HL)` (R153). -/
def execXorHL (s : State) : Result :=
  .next (aluAHL xor8 s)

/-- `XOR n8` (R154). -/
def execXorN8 (n : Byte) (s : State) : Result :=
  .next (aluA xor8 n 2 s)

/-- `XOR r8` (R155). -/
def execXorR8 (r : R8) (s : State) : Result :=
  .next (aluA xor8 (s.r8 r) 1 s)


end Sys2Proof.Machine
end

