-- ==== Sys2Proof/Machine/Control.lean ====
section
/-!
DEFINITION. The control transfer instructions (spec/43_control.md).
-/

namespace Sys2Proof.Machine

/-- The call of CALL, CALL cc and RST: the return address pushed, then the jump (R192). -/
def State.callTo (s : State) (back target : Word) : State := (s.push16 back).jump target

/-- `CALL cc, n16` (R181). -/
def execCallCC (cc : Cond) (n : Word) (s : State) : Result :=
  .next (if condHolds cc s.flags then s.callTo (s.pc + 3) n else s.advance 3)

/-- `CALL n16` (R182). -/
def execCall (n : Word) (s : State) : Result :=
  .next (s.callTo (s.pc + 3) n)

/-- `JP (HL)`: the value of HL, no memory read (R183). -/
def execJpHL (s : State) : Result :=
  .next (s.jump s.hl)

/-- `JP cc, n16` (R184). -/
def execJpCC (cc : Cond) (n : Word) (s : State) : Result :=
  .next (if condHolds cc s.flags then s.jump n else s.advance 3)

/-- `JP n16` (R185). -/
def execJp (n : Word) (s : State) : Result :=
  .next (s.jump n)

/-- `JR cc, e8` (R186). -/
def execJrCC (cc : Cond) (e : Byte) (s : State) : Result :=
  .next (if condHolds cc s.flags then s.jump (jrTarget s.pc e) else s.advance 2)

/-- `JR e8` (R187). -/
def execJr (e : Byte) (s : State) : Result :=
  .next (s.jump (jrTarget s.pc e))

/-- `RET` (R190). -/
def execRet (s : State) : Result :=
  .next s.returnFromStack

/-- `RET cc` (R191). -/
def execRetCC (cc : Cond) (s : State) : Result :=
  .next (if condHolds cc s.flags then s.returnFromStack else s.advance 1)

/-- `RETI`: RET, and IME 1 at once (R193). -/
def execReti (s : State) : Result :=
  .next { s.returnFromStack with ime := true, eiPending := false }

/-- `RST f`, f = 8 * t (R194). -/
def execRst (t : BitVec 3) (s : State) : Result :=
  .next (s.callTo (s.pc + 1) (BitVec.ofNat 16 (8 * t.toNat)))


end Sys2Proof.Machine
end

