-- ==== Sys2Proof/Machine/Load.lean ====
section
/-!
DEFINITION. The load, store and stack instructions (spec/45_load.md).
-/

namespace Sys2Proof.Machine

/-- `LD (C), A` (R211). -/
def execLdCA (s : State) : Result :=
  .next ((s.memWrite (highPage s.regs.c) s.regs.a).advance 1)

/-- `LD (HL), n8` (R212). -/
def execLdHLN8 (n : Byte) (s : State) : Result :=
  .next ((s.memWrite s.hl n).advance 2)

/-- `LD (HL), r8` (R213). -/
def execLdHLR8 (r : R8) (s : State) : Result :=
  .next ((s.memWrite s.hl (s.r8 r)).advance 1)

/-- `LD (n16), A` (R214). -/
def execLdN16A (n : Word) (s : State) : Result :=
  .next ((s.memWrite n s.regs.a).advance 3)

/-- `LD (n16), SP` (R215): the low byte first, at the lower address. -/
def execLdN16SP (n : Word) (s : State) : Result :=
  .next ((s.memWrite16 n s.sp).advance 3)

/-- `LD (r16), A` (R216). -/
def execLdR16A (p : R16Ptr) (s : State) : Result :=
  .next ((s.memWrite (s.pointer p) s.regs.a).advance 1)

/-- A loaded from the byte at an address, for an instruction of n bytes; no flag. -/
def loadA (a : Word) (n : Nat) (s : State) : State := ((s.afterRead a).setReg8 .a (s.readByte a)).advance n

/-- `LD A, (C)` (R217). -/
def execLdAC (s : State) : Result :=
  .next (loadA (highPage s.regs.c) 1 s)

/-- `LD A, (n16)` (R218). -/
def execLdAN16 (n : Word) (s : State) : Result :=
  .next (loadA n 3 s)

/-- `LD A, (r16)` (R219). -/
def execLdAR16 (p : R16Ptr) (s : State) : Result :=
  .next (loadA (s.pointer p) 1 s)

/-- `LD HL, SP + e8` (R220): the flags of ADD SP, e8. -/
def execLdHLSPE8 (e : Byte) (s : State) : Result :=
  .next (((s.setHL (addOffset s.sp e).1).setFlags (addOffset s.sp e).2).advance 2)

/-- `LD r16, n16` (R221). -/
def execLdR16N16 (p : R16) (n : Word) (s : State) : Result :=
  .next ((s.setReg16 p n).advance 3)

/-- `LD r8, (HL)` (R222): the address is the old HL. -/
def execLdR8HL (r : R8) (s : State) : Result :=
  .next (((s.afterRead s.hl).setReg8 r (s.readByte s.hl)).advance 1)

/-- `LD r8, n8` (R223). -/
def execLdR8N8 (r : R8) (n : Byte) (s : State) : Result :=
  .next ((s.setReg8 r n).advance 2)

/-- `LD r8, r8` (R224). -/
def execLdR8R8 (r q : R8) (s : State) : Result :=
  .next ((s.setReg8 r (s.r8 q)).advance 1)

/-- `LD SP, HL` (R225). -/
def execLdSPHL (s : State) : Result :=
  .next ((s.setSP s.hl).advance 1)

/-- `LDD (HL), A` (R226): the store uses HL before the decrement. -/
def execLddHLA (s : State) : Result :=
  .next (((s.memWrite s.hl s.regs.a).setHL (s.hl - 1)).advance 1)

/-- `LDD A, (HL)` (R227). -/
def execLddAHL (s : State) : Result :=
  .next ((loadA s.hl 1 s).setHL (s.hl - 1))

/-- `LDH (e8), A` (R228): the offset is unsigned. -/
def execLdhE8A (e : Byte) (s : State) : Result :=
  .next ((s.memWrite (highPage e) s.regs.a).advance 2)

/-- `LDH A, (e8)` (R229). -/
def execLdhAE8 (e : Byte) (s : State) : Result :=
  .next (loadA (highPage e) 2 s)

/-- `LDI (HL), A` (R230): the store uses HL before the increment. -/
def execLdiHLA (s : State) : Result :=
  .next (((s.memWrite s.hl s.regs.a).setHL (s.hl + 1)).advance 1)

/-- `LDI A, (HL)` (R231). -/
def execLdiAHL (s : State) : Result :=
  .next ((loadA s.hl 1 s).setHL (s.hl + 1))

/-- `POP r16` (R232). -/
def execPopR16 (p : R16Stk) (s : State) : Result :=
  .next ((s.afterPop.setReg16Stk p s.popValue).advance 1)

/-- `PUSH r16` (R233). -/
def execPushR16 (p : R16Stk) (s : State) : Result :=
  .next ((s.push16 (s.r16Stk p)).advance 1)


end Sys2Proof.Machine
end

