-- ==== Sys2Proof/Machine/Bit.lean ====
section
/-!
DEFINITION. The bit test, reset and set instructions (spec/42_bit.md).
-/

namespace Sys2Proof.Machine

/-- A register replaced by an operation that writes no flag, for an instruction of two bytes. -/
def changeR8 (op : Byte → Byte) (r : R8) (s : State) : State := (s.setReg8 r (op (s.r8 r))).advance 2

/-- The byte at HL read once and written once by an operation that writes no flag (R60). -/
def changeHL (op : Byte → Byte) (s : State) : State :=
  ((s.afterRead s.hl).memWrite s.hl (op (s.readByte s.hl))).advance 2

/-- `BIT n3, (HL)` (R170): the byte is read and not written. -/
def execBitHL (k : BitVec 3) (s : State) : Result :=
  .next (((s.afterRead s.hl).setFlags (bitTest (s.readByte s.hl) k s.flags)).advance 2)

/-- `BIT n3, r8` (R171). -/
def execBitR8 (k : BitVec 3) (r : R8) (s : State) : Result :=
  .next ((s.setFlags (bitTest (s.r8 r) k s.flags)).advance 2)

/-- `RES n3, (HL)` (R172). -/
def execResHL (k : BitVec 3) (s : State) : Result :=
  .next (changeHL (fun v => clearBit v k) s)

/-- `RES n3, r8` (R173). -/
def execResR8 (k : BitVec 3) (r : R8) (s : State) : Result :=
  .next (changeR8 (fun v => clearBit v k) r s)

/-- `SET n3, (HL)` (R174). -/
def execSetHL (k : BitVec 3) (s : State) : Result :=
  .next (changeHL (fun v => setBit v k) s)

/-- `SET n3, r8` (R175). -/
def execSetR8 (k : BitVec 3) (r : R8) (s : State) : Result :=
  .next (changeR8 (fun v => setBit v k) r s)


end Sys2Proof.Machine
end

