-- ==== Sys2Proof/Machine/Rotate.lean ====
section
/-!
DEFINITION. The rotate, shift and swap instructions (spec/46_rotate_shift.md).
-/

namespace Sys2Proof.Machine

/-- `RL (HL)` (R251). -/
def execRlHL (s : State) : Result :=
  .next (modifyHL (shiftOp rlOp s.flags) 2 s)

/-- `RL r8` (R252). -/
def execRlR8 (r : R8) (s : State) : Result :=
  .next (modifyR8 (shiftOp rlOp s.flags) r 2 s)

/-- `RLA` (R253). -/
def execRla (s : State) : Result :=
  .next (rotateA rlOp s)

/-- `RLC (HL)` (R254). -/
def execRlcHL (s : State) : Result :=
  .next (modifyHL (shiftOp rlcOp s.flags) 2 s)

/-- `RLC r8` (R255). -/
def execRlcR8 (r : R8) (s : State) : Result :=
  .next (modifyR8 (shiftOp rlcOp s.flags) r 2 s)

/-- `RLCA` (R256). -/
def execRlca (s : State) : Result :=
  .next (rotateA rlcOp s)

/-- `RR (HL)` (R257). -/
def execRrHL (s : State) : Result :=
  .next (modifyHL (shiftOp rrOp s.flags) 2 s)

/-- `RR r8` (R258). -/
def execRrR8 (r : R8) (s : State) : Result :=
  .next (modifyR8 (shiftOp rrOp s.flags) r 2 s)

/-- `RRA` (R259). -/
def execRra (s : State) : Result :=
  .next (rotateA rrOp s)

/-- `RRC (HL)` (R260). -/
def execRrcHL (s : State) : Result :=
  .next (modifyHL (shiftOp rrcOp s.flags) 2 s)

/-- `RRC r8` (R261). -/
def execRrcR8 (r : R8) (s : State) : Result :=
  .next (modifyR8 (shiftOp rrcOp s.flags) r 2 s)

/-- `RRCA` (R262). -/
def execRrca (s : State) : Result :=
  .next (rotateA rrcOp s)

/-- `SLA (HL)` (R263). -/
def execSlaHL (s : State) : Result :=
  .next (modifyHL (shiftOp slaOp s.flags) 2 s)

/-- `SLA r8` (R264). -/
def execSlaR8 (r : R8) (s : State) : Result :=
  .next (modifyR8 (shiftOp slaOp s.flags) r 2 s)

/-- `SRA (HL)` (R265). -/
def execSraHL (s : State) : Result :=
  .next (modifyHL (shiftOp sraOp s.flags) 2 s)

/-- `SRA r8` (R266). -/
def execSraR8 (r : R8) (s : State) : Result :=
  .next (modifyR8 (shiftOp sraOp s.flags) r 2 s)

/-- `SRL (HL)` (R267). -/
def execSrlHL (s : State) : Result :=
  .next (modifyHL (shiftOp srlOp s.flags) 2 s)

/-- `SRL r8` (R268). -/
def execSrlR8 (r : R8) (s : State) : Result :=
  .next (modifyR8 (shiftOp srlOp s.flags) r 2 s)

/-- `SWAP (HL)` (R269). -/
def execSwapHL (s : State) : Result :=
  .next (modifyHL (shiftOp swapOp s.flags) 2 s)

/-- `SWAP r8` (R270). -/
def execSwapR8 (r : R8) (s : State) : Result :=
  .next (modifyR8 (shiftOp swapOp s.flags) r 2 s)


end Sys2Proof.Machine
end

