-- ==== Sys2Proof/Machine/Opcode.lean ====
section
/-!
DEFINITION. The two rows of spec/opcode_table.json that are not instructions of their own: the byte
CBh alone (spec/30_encoding.md R92) and the unassigned first bytes (R93, spec/60_exceptions.md R300).
The decoder never answers the first: it reads the second byte itself (R95).
-/

namespace Sys2Proof.Machine

/-- Rotate or shift number y on a register (R92, x = 0). -/
def runRotateR8 (y : BitVec 3) (r : R8) (s : State) : Result :=
  match y.toNat with
  | 0 => execRlcR8 r s
  | 1 => execRrcR8 r s
  | 2 => execRlR8 r s
  | 3 => execRrR8 r s
  | 4 => execSlaR8 r s
  | 5 => execSraR8 r s
  | 6 => execSwapR8 r s
  | _ => execSrlR8 r s

/-- Rotate or shift number y on the byte at HL (R92, x = 0). -/
def runRotateHL (y : BitVec 3) (s : State) : Result :=
  match y.toNat with
  | 0 => execRlcHL s
  | 1 => execRrcHL s
  | 2 => execRlHL s
  | 3 => execRrHL s
  | 4 => execSlaHL s
  | 5 => execSraHL s
  | 6 => execSwapHL s
  | _ => execSrlHL s

/-- The instruction that the second opcode byte names (R92). -/
def runCB (op2 : Byte) (s : State) : Result :=
  match r8OfField (fieldZ op2) with
  | some r =>
    match fieldX op2 with
    | 0 => runRotateR8 (fieldY op2) r s
    | 1 => execBitR8 (fieldY op2) r s
    | 2 => execResR8 (fieldY op2) r s
    | _ => execSetR8 (fieldY op2) r s
  | none =>
    match fieldX op2 with
    | 0 => runRotateHL (fieldY op2) s
    | 1 => execBitHL (fieldY op2) s
    | 2 => execResHL (fieldY op2) s
    | _ => execSetHL (fieldY op2) s

/-- The byte CBh: "the next byte is a second opcode byte" (R92), read at pc + 1. -/
def execPrefixCB (s : State) : Result := runCB (s.readByte (s.pc + 1)) (s.afterRead (s.pc + 1))

/-- An unassigned first byte: the fault IllegalOpcode (R93, R300). -/
def execUnassigned (op : Byte) (s : State) : Result := .next (s.raiseIllegalOpcode op)

end Sys2Proof.Machine
end

