-- ==== Sys2Proof/Machine/System.lean ====
section
/-!
DEFINITION. The system instructions (spec/44_system.md).
-/

namespace Sys2Proof.Machine

/-- `DI` (R200). -/
def execDi (s : State) : Result :=
  .next (State.advance { s with ime := false, eiPending := false } 1)

/-- `EI` (R201): IME itself is written by the step rule (R306), one instruction later. -/
def execEi (s : State) : Result :=
  .next (State.advance { s with eiPending := true } 1)

/-- `HALT` (R202). With IME = 0 and a request pending and enabled the spec gives it no meaning (U8). -/
def execHalt (s : State) : Result :=
  if s.ime = false ∧ s.intCtl.pending ≠ none then .refused .haltWithRequestPending
  else .next (State.advance { s with mode := .halted } 1)

/-- `NOP` (R203). -/
def execNop (s : State) : Result :=
  .next (s.advance 1)

/-- `STOP` (R204): two bytes, the second skipped unread. -/
def execStop (s : State) : Result :=
  .next (State.advance { s with mode := .stopped } 2)


end Sys2Proof.Machine
end

