-- ==== Sys2Proof/Machine/Dispatch.lean ====
section
/-!
DEFINITION. The meaning of every instruction: one arm per constructor, each one call of its meaning.
-/

namespace Sys2Proof.Machine

/-- What an instruction does to the state in which its bytes have been fetched and the pc still points
at its first byte (spec/10_state.md R24). -/
def exec (i : Instr) (s : State) : Host.Outcome State Fault Refusal :=
  match i with
  | .adcHL => Sys2Proof.Machine.execAdcHL s
  | .adcN8 n => Sys2Proof.Machine.execAdcN8 n s
  | .adcR8 r => Sys2Proof.Machine.execAdcR8 r s
  | .addHL => Sys2Proof.Machine.execAddHL s
  | .addN8 n => Sys2Proof.Machine.execAddN8 n s
  | .addR8 r => Sys2Proof.Machine.execAddR8 r s
  | .andHL => Sys2Proof.Machine.execAndHL s
  | .andN8 n => Sys2Proof.Machine.execAndN8 n s
  | .andR8 r => Sys2Proof.Machine.execAndR8 r s
  | .ccf => Sys2Proof.Machine.execCcf s
  | .cpHL => Sys2Proof.Machine.execCpHL s
  | .cpN8 n => Sys2Proof.Machine.execCpN8 n s
  | .cpR8 r => Sys2Proof.Machine.execCpR8 r s
  | .cpl => Sys2Proof.Machine.execCpl s
  | .daa => Sys2Proof.Machine.execDaa s
  | .decHL => Sys2Proof.Machine.execDecHL s
  | .decR8 r => Sys2Proof.Machine.execDecR8 r s
  | .incHL => Sys2Proof.Machine.execIncHL s
  | .incR8 r => Sys2Proof.Machine.execIncR8 r s
  | .orHL => Sys2Proof.Machine.execOrHL s
  | .orN8 n => Sys2Proof.Machine.execOrN8 n s
  | .orR8 r => Sys2Proof.Machine.execOrR8 r s
  | .sbcHL => Sys2Proof.Machine.execSbcHL s
  | .sbcN8 n => Sys2Proof.Machine.execSbcN8 n s
  | .sbcR8 r => Sys2Proof.Machine.execSbcR8 r s
  | .scf => Sys2Proof.Machine.execScf s
  | .subHL => Sys2Proof.Machine.execSubHL s
  | .subN8 n => Sys2Proof.Machine.execSubN8 n s
  | .subR8 r => Sys2Proof.Machine.execSubR8 r s
  | .xorHL => Sys2Proof.Machine.execXorHL s
  | .xorN8 n => Sys2Proof.Machine.execXorN8 n s
  | .xorR8 r => Sys2Proof.Machine.execXorR8 r s
  | .addHLR16 p => Sys2Proof.Machine.execAddHLR16 p s
  | .addSPE8 e => Sys2Proof.Machine.execAddSPE8 e s
  | .decR16 p => Sys2Proof.Machine.execDecR16 p s
  | .incR16 p => Sys2Proof.Machine.execIncR16 p s
  | .bitHL k => Sys2Proof.Machine.execBitHL k s
  | .bitR8 k r => Sys2Proof.Machine.execBitR8 k r s
  | .resHL k => Sys2Proof.Machine.execResHL k s
  | .resR8 k r => Sys2Proof.Machine.execResR8 k r s
  | .setHL k => Sys2Proof.Machine.execSetHL k s
  | .setR8 k r => Sys2Proof.Machine.execSetR8 k r s
  | .callCC cc n => Sys2Proof.Machine.execCallCC cc n s
  | .call n => Sys2Proof.Machine.execCall n s
  | .jpHL => Sys2Proof.Machine.execJpHL s
  | .jpCC cc n => Sys2Proof.Machine.execJpCC cc n s
  | .jp n => Sys2Proof.Machine.execJp n s
  | .jrCC cc e => Sys2Proof.Machine.execJrCC cc e s
  | .jr e => Sys2Proof.Machine.execJr e s
  | .ret => Sys2Proof.Machine.execRet s
  | .retCC cc => Sys2Proof.Machine.execRetCC cc s
  | .reti => Sys2Proof.Machine.execReti s
  | .rst t => Sys2Proof.Machine.execRst t s
  | .di => Sys2Proof.Machine.execDi s
  | .ei => Sys2Proof.Machine.execEi s
  | .halt => Sys2Proof.Machine.execHalt s
  | .nop => Sys2Proof.Machine.execNop s
  | .stop => Sys2Proof.Machine.execStop s
  | .ldCA => Sys2Proof.Machine.execLdCA s
  | .ldHLN8 n => Sys2Proof.Machine.execLdHLN8 n s
  | .ldHLR8 r => Sys2Proof.Machine.execLdHLR8 r s
  | .ldN16A n => Sys2Proof.Machine.execLdN16A n s
  | .ldN16SP n => Sys2Proof.Machine.execLdN16SP n s
  | .ldR16A p => Sys2Proof.Machine.execLdR16A p s
  | .ldAC => Sys2Proof.Machine.execLdAC s
  | .ldAN16 n => Sys2Proof.Machine.execLdAN16 n s
  | .ldAR16 p => Sys2Proof.Machine.execLdAR16 p s
  | .ldHLSPE8 e => Sys2Proof.Machine.execLdHLSPE8 e s
  | .ldR16N16 p n => Sys2Proof.Machine.execLdR16N16 p n s
  | .ldR8HL r => Sys2Proof.Machine.execLdR8HL r s
  | .ldR8N8 r n => Sys2Proof.Machine.execLdR8N8 r n s
  | .ldR8R8 r q => Sys2Proof.Machine.execLdR8R8 r q s
  | .ldSPHL => Sys2Proof.Machine.execLdSPHL s
  | .lddHLA => Sys2Proof.Machine.execLddHLA s
  | .lddAHL => Sys2Proof.Machine.execLddAHL s
  | .ldhE8A e => Sys2Proof.Machine.execLdhE8A e s
  | .ldhAE8 e => Sys2Proof.Machine.execLdhAE8 e s
  | .ldiHLA => Sys2Proof.Machine.execLdiHLA s
  | .ldiAHL => Sys2Proof.Machine.execLdiAHL s
  | .popR16 p => Sys2Proof.Machine.execPopR16 p s
  | .pushR16 p => Sys2Proof.Machine.execPushR16 p s
  | .rlHL => Sys2Proof.Machine.execRlHL s
  | .rlR8 r => Sys2Proof.Machine.execRlR8 r s
  | .rla => Sys2Proof.Machine.execRla s
  | .rlcHL => Sys2Proof.Machine.execRlcHL s
  | .rlcR8 r => Sys2Proof.Machine.execRlcR8 r s
  | .rlca => Sys2Proof.Machine.execRlca s
  | .rrHL => Sys2Proof.Machine.execRrHL s
  | .rrR8 r => Sys2Proof.Machine.execRrR8 r s
  | .rra => Sys2Proof.Machine.execRra s
  | .rrcHL => Sys2Proof.Machine.execRrcHL s
  | .rrcR8 r => Sys2Proof.Machine.execRrcR8 r s
  | .rrca => Sys2Proof.Machine.execRrca s
  | .slaHL => Sys2Proof.Machine.execSlaHL s
  | .slaR8 r => Sys2Proof.Machine.execSlaR8 r s
  | .sraHL => Sys2Proof.Machine.execSraHL s
  | .sraR8 r => Sys2Proof.Machine.execSraR8 r s
  | .srlHL => Sys2Proof.Machine.execSrlHL s
  | .srlR8 r => Sys2Proof.Machine.execSrlR8 r s
  | .swapHL => Sys2Proof.Machine.execSwapHL s
  | .swapR8 r => Sys2Proof.Machine.execSwapR8 r s
  | .prefixCB => Sys2Proof.Machine.execPrefixCB s
  | .unassigned b => Sys2Proof.Machine.execUnassigned b s

end Sys2Proof.Machine
end

