-- ==== Sys2Proof/Machine/Step.lean ====
section
/-!
DEFINITION. One step of the machine (spec/60_exceptions.md R306) and the placing of an instruction
where the step fetches next.
-/

namespace Sys2Proof.Machine

/-- Fetch, decode and execute the instruction at pc, with the delayed effect of EI (R306). -/
def State.runInstr (s : State) : Host.Outcome State Fault Refusal :=
  let f := State.fetch { s with eiPending := false }
  completeEI s.eiPending f.1 (exec f.1 f.2)

/-- One step of the CPU (R306), after what the platform did at the boundary. -/
def State.cpuStep (s : State) (stopWake : Bool) : Host.Outcome State Fault Refusal :=
  match s.mode with
  | .locked op => .fault (.illegalOpcode op)
  | .stopped => .next (s.stoppedStep stopWake)
  | .halted => .next s.haltedStep
  | .running =>
    match s.interruptDue with
    | some n => s.enterInterrupt n
    | none => s.runInstr

/-- One step of the machine: the platform's acts at this boundary, then the CPU's step. -/
def step (s : State) : Host.Outcome State Fault Refusal := s.afterArrival.cpuStep s.arrival.stopWake

/-- `s` with the instruction whose bits are `w` (numbered as spec/opcode_table.json numbers them)
stored at pc, and with all that the very next step needs to fetch it there: its three bytes RAM, the
mode Running, nothing arriving at the boundary, and no interrupt due. -/
def State.withFetchWord (s : State) (nbits w : Nat) : State :=
  let v := w % 2 ^ nbits
  { s with
    mem :=
      ((s.mem.set s.pc.toNat (BitVec.ofNat 8 v)).set (s.pc + 1).toNat
        (BitVec.ofNat 8 (v / 2 ^ 8))).set (s.pc + 2).toNat (BitVec.ofNat 8 (v / 2 ^ 16))
    bus :=
      if s.kindAt s.pc = .ram ∧ s.kindAt (s.pc + 1) = .ram ∧ s.kindAt (s.pc + 2) = .ram then s.bus
      else
        ⟨s.pc.toNat, s.pc.toNat, .ram⟩ :: ⟨(s.pc + 1).toNat, (s.pc + 1).toNat, .ram⟩ ::
          ⟨(s.pc + 2).toNat, (s.pc + 2).toNat, .ram⟩ :: s.bus
    mode := .running
    arrivals := []
    ime := s.ime && s.intCtl.pending.isNone }

end Sys2Proof.Machine
end

