-- ==== Sys2Proof/Safety.lean ====
section
/-!
DEFINITION. What claims about runs use: the end of a run (spec/70_reset_and_hazards.md R347), a
state from which the machine goes on, the invariant that every step keeps, and the terms in which
claims speak of operands, stores and groups of instructions.
-/

namespace Sys2Proof.Machine

/-- The parameter `EndOfRun.pc` of R347: a state is final when mode = Running, pc is that address and no
interrupt entry is due. Every `State` is at an instruction boundary. Whether an entry is due is
judged after the platform's events at this boundary, as the step will judge it, and a state at whose
boundary a reset arrives is not final. DESIGN CHOICE, log entry 26. -/
def State.final (endPc : Word) (s : State) : Bool :=
  decide (s.mode = .running) && decide (s.pc = endPc) && s.arrival.reset.isNone &&
    s.afterArrival.interruptDue.isNone

/-- The fault of R300 has been recorded: mode Locked. -/
def State.faulted (s : State) : Bool :=
  match s.mode with
  | .locked _ => true
  | .running => false
  | .halted => false
  | .stopped => false

/-- The next step is neither a fault nor a refusal. -/
def State.goesOn (s : State) : Prop := ∃ t, step s = .next t

/-- The states after `k` steps that all went on. -/
def runsTo : Nat → State → State → Prop
  | 0, s, t => s = t
  | k + 1, s, t => ∃ u, step s = .next u ∧ runsTo k u t

/-- The run ends at the first final state (R347): `k` steps lead from `s` to the final state `t`, no
state before is final, and none is faulted: a run that reaches Locked is a faulted run, also when a
reset takes it out again (R300). A refused step leads to no state at all. -/
def endsIn (endPc : Word) (k : Nat) (s t : State) : Prop :=
  runsTo k s t ∧ t.final endPc = true ∧
    ∀ j u, j < k → runsTo j s u → u.final endPc = false ∧ u.faulted = false

/-- The invariant of the machine: memory in its canonical form; an EI waits for its effect only while the
CPU runs (R30, R306); the byte recorded in mode Locked is one of the eleven of R93. -/
structure State.Inv (s : State) : Prop where
  memory : s.mem.wf = true
  pendingEI : s.eiPending = true → s.mode = .running
  lockedByte : ∀ op, s.mode = .locked op → op ∈ unassignedBytes

/-! ## Operands of one shape -/

/-- The three sources of an A-operation (spec/40_alu8.md R120): a register, the byte at HL, the immediate. -/
inductive ByteSource where
  | reg (r : R8)
  | mem
  | imm (n : Byte)
  deriving DecidableEq, Repr

/-- The operand y (R120). -/
def ByteSource.value (o : ByteSource) (s : State) : Byte :=
  match o with
  | .reg r => s.r8 r
  | .mem => s.readByte s.hl
  | .imm n => n

/-- The state after the operand is read. -/
def ByteSource.after (o : ByteSource) (s : State) : State :=
  match o with
  | .reg _ => s
  | .mem => s.afterRead s.hl
  | .imm _ => s

/-- The length of the instruction form (R120). -/
def ByteSource.length (o : ByteSource) : Nat :=
  match o with
  | .reg _ => 1
  | .mem => 1
  | .imm _ => 2

/-- The eight A-operations (spec/30_encoding.md R90). -/
inductive AluOp where
  | add | adc | sub | sbc | and | xor | or | cp
  deriving DecidableEq, Repr

/-- The instruction of an A-operation and a source: the 24 forms of R124 to R136, R143 to R148 and R150
to R155. -/
def aluInstr (op : AluOp) (o : ByteSource) : Instr :=
  match op, o with
  | .add, .reg r => .addR8 r
  | .add, .mem => .addHL
  | .add, .imm n => .addN8 n
  | .adc, .reg r => .adcR8 r
  | .adc, .mem => .adcHL
  | .adc, .imm n => .adcN8 n
  | .sub, .reg r => .subR8 r
  | .sub, .mem => .subHL
  | .sub, .imm n => .subN8 n
  | .sbc, .reg r => .sbcR8 r
  | .sbc, .mem => .sbcHL
  | .sbc, .imm n => .sbcN8 n
  | .and, .reg r => .andR8 r
  | .and, .mem => .andHL
  | .and, .imm n => .andN8 n
  | .xor, .reg r => .xorR8 r
  | .xor, .mem => .xorHL
  | .xor, .imm n => .xorN8 n
  | .or, .reg r => .orR8 r
  | .or, .mem => .orHL
  | .or, .imm n => .orN8 n
  | .cp, .reg r => .cpR8 r
  | .cp, .mem => .cpHL
  | .cp, .imm n => .cpN8 n

/-- The operand that an instruction replaces: a register or the byte at HL. -/
inductive ByteTarget where
  | reg (r : R8)
  | mem
  deriving DecidableEq, Repr

/-- The byte the operand holds before. -/
def ByteTarget.value (x : ByteTarget) (s : State) : Byte :=
  match x with
  | .reg r => s.r8 r
  | .mem => s.readByte s.hl

/-- `INC` on an operand (R141, R142). -/
def ByteTarget.inc (x : ByteTarget) : Instr :=
  match x with
  | .reg r => .incR8 r
  | .mem => .incHL

/-- `DEC` on an operand (R139, R140). -/
def ByteTarget.dec (x : ByteTarget) : Instr :=
  match x with
  | .reg r => .decR8 r
  | .mem => .decHL

/-- `BIT` on an operand (R170, R171). -/
def ByteTarget.bit (x : ByteTarget) (k : BitVec 3) : Instr :=
  match x with
  | .reg r => .bitR8 k r
  | .mem => .bitHL k

/-- `RES` on an operand (R172, R173). -/
def ByteTarget.res (x : ByteTarget) (k : BitVec 3) : Instr :=
  match x with
  | .reg r => .resR8 k r
  | .mem => .resHL k

/-- `SET` on an operand (R174, R175). -/
def ByteTarget.set (x : ByteTarget) (k : BitVec 3) : Instr :=
  match x with
  | .reg r => .setR8 k r
  | .mem => .setHL k

/-- The eight rotates and shifts (spec/46_rotate_shift.md R250). -/
inductive ShiftName where
  | rlc | rrc | rl | rr | sla | sra | srl | swap
  deriving DecidableEq, Repr

/-- The CBh form of a rotate or shift on an operand (R251 to R270). -/
def ByteTarget.shift (x : ByteTarget) (k : ShiftName) : Instr :=
  match k, x with
  | .rlc, .reg r => .rlcR8 r
  | .rlc, .mem => .rlcHL
  | .rrc, .reg r => .rrcR8 r
  | .rrc, .mem => .rrcHL
  | .rl, .reg r => .rlR8 r
  | .rl, .mem => .rlHL
  | .rr, .reg r => .rrR8 r
  | .rr, .mem => .rrHL
  | .sla, .reg r => .slaR8 r
  | .sla, .mem => .slaHL
  | .sra, .reg r => .sraR8 r
  | .sra, .mem => .sraHL
  | .srl, .reg r => .srlR8 r
  | .srl, .mem => .srlHL
  | .swap, .reg r => .swapR8 r
  | .swap, .mem => .swapHL

/-! ## What an instruction leaves -/

/-- An address of RAM where no register of the interrupt controller stands. -/
abbrev State.plainRam (s : State) (a : Word) : Prop :=
  s.kindAt a = .ram ∧ s.intCtl.register a = none

/-- What a controller is after the CPU has stored `v` at `a` (R303): the Game Boy's IE at FFFFh takes
the byte, its IF at FF0Fh the low five bits; every other store leaves a controller alone. -/
def IntCtl.afterStore (c : IntCtl) (a : Word) (v : Byte) : IntCtl :=
  match c with
  | .gameBoy ie irq =>
    .gameBoy (if a = 0xFFFF#16 then v else ie)
      (if a = 0xFF0F#16 then BitVec.ofNat 5 (v.toNat % 32) else irq)
  | .sources l m => .sources l m

/-- From `s` to `t` one byte was stored, `v` at `a` (R54). Every other address holds what it held. The
address itself holds `v` where it is plain RAM, and what it held where it is ROM, DEVICE or OPEN;
where it is a register of the controller, the register takes the store and memory is as before (log
entry 8). -/
structure StoresByte (s t : State) (a : Word) (v : Byte) : Prop where
  other : ∀ x, x ≠ a → t.byteAt x = s.byteAt x
  plain : s.mem.wf = true → s.plainRam a → t.byteAt a = v
  notRam : s.kindAt a ≠ .ram → s.intCtl.register a = none → t.byteAt a = s.byteAt a
  notPlain : ¬s.plainRam a → t.mem = s.mem
  controller : t.intCtl = s.intCtl.afterStore a v
  history : t.history = .write a v :: s.history

/-- From `s` to `t` two bytes were stored at two addresses, `v` at `a` and then `w` at `b`; each address
as in `StoresByte`. -/
structure StoresTwoBytes (s t : State) (a : Word) (v : Byte) (b : Word) (w : Byte) : Prop where
  other : ∀ x, x ≠ a → x ≠ b → t.byteAt x = s.byteAt x
  plainA : s.mem.wf = true → s.plainRam a → t.byteAt a = v
  plainB : s.mem.wf = true → s.plainRam b → t.byteAt b = w
  notRamA : s.kindAt a ≠ .ram → s.intCtl.register a = none → t.byteAt a = s.byteAt a
  notRamB : s.kindAt b ≠ .ram → s.intCtl.register b = none → t.byteAt b = s.byteAt b
  notPlain : ¬s.plainRam a → ¬s.plainRam b → t.mem = s.mem
  controller : t.intCtl = (s.intCtl.afterStore a v).afterStore b w
  history : t.history = .write b w :: .write a v :: s.history

/-- `t` is `s` but for memory, the controller's registers in it, the history and the pc. -/
def ChangesMemoryAndPc (s t : State) (pc : Word) : Prop :=
  t = { s with mem := t.mem, intCtl := t.intCtl, history := t.history, pc := pc }

/-- From `s` to `t` the operand was read and replaced by `v`, with the flags `f`, by an instruction of
`n` bytes. A register: no other register and no memory changes. The byte at HL: read once and written
once, and no register changes. -/
def ByteTarget.Replaced (x : ByteTarget) (s t : State) (v : Byte) (f : Flags) (n : Nat) : Prop :=
  match x with
  | .reg r =>
    t.r8 r = v ∧ (∀ q, q ≠ r → t.r8 q = s.r8 q) ∧
      t = { s with regs := t.regs, flags := f, pc := s.pc + BitVec.ofNat 16 n }
  | .mem =>
    StoresByte (s.afterRead s.hl) t s.hl v ∧
      ChangesMemoryAndPc { s with flags := f } t (s.pc + BitVec.ofNat 16 n)

/-! ## Groups of instructions -/

/-- The rows of the table of R27: the instructions that write flags. -/
def writesFlags (i : Instr) : Bool :=
  match i with
  | .adcHL | .adcN8 _ | .adcR8 _ | .addHL | .addN8 _ | .addR8 _ => true
  | .addHLR16 _ | .addSPE8 _ | .ldHLSPE8 _ => true
  | .andHL | .andN8 _ | .andR8 _ | .orHL | .orN8 _ | .orR8 _ | .xorHL | .xorN8 _ | .xorR8 _ => true
  | .subHL | .subN8 _ | .subR8 _ | .sbcHL | .sbcN8 _ | .sbcR8 _ | .cpHL | .cpN8 _ | .cpR8 _ => true
  | .incHL | .incR8 _ | .decHL | .decR8 _ | .bitHL _ | .bitR8 _ _ => true
  | .ccf | .scf | .cpl | .daa | .rla | .rlca | .rra | .rrca => true
  | .rlHL | .rlcHL | .rrHL | .rrcHL | .slaHL | .sraHL | .srlHL | .swapHL => true
  | .rlR8 _ | .rlcR8 _ | .rrR8 _ | .rrcR8 _ | .slaR8 _ | .sraR8 _ | .srlR8 _ | .swapR8 _ => true
  | .popR16 p => decide (p = .af)
  | .prefixCB => true
  | _ => false

/-- The instructions that write SP (R23). -/
def writesSP (i : Instr) : Bool :=
  match i with
  | .ldR16N16 p _ => decide (p = .sp)
  | .incR16 p => decide (p = .sp)
  | .decR16 p => decide (p = .sp)
  | .ldSPHL | .addSPE8 _ | .pushR16 _ | .popR16 _ => true
  | .call _ | .callCC _ _ | .rst _ | .ret | .retCC _ | .reti => true
  | _ => false

/-- The instructions that store to memory (R51, R60). -/
def writesMemory (i : Instr) : Bool :=
  match i with
  | .incHL | .decHL | .resHL _ | .setHL _ => true
  | .rlHL | .rlcHL | .rrHL | .rrcHL | .slaHL | .sraHL | .srlHL | .swapHL => true
  | .ldCA | .ldHLN8 _ | .ldHLR8 _ | .ldN16A _ | .ldN16SP _ | .ldR16A _ => true
  | .lddHLA | .ldhE8A _ | .ldiHLA | .pushR16 _ => true
  | .call _ | .callCC _ _ | .rst _ => true
  | .prefixCB => true
  | _ => false

/-- The state with N and H at given values. -/
def State.withNH (s : State) (n h : Bool) : State := { s with flags := { s.flags with n := n, h := h } }

/-- The value of a packed BCD byte. -/
def bcdValue (v : Byte) : Nat := 10 * (v.toNat / 16) + v.toNat % 16

/-- A packed BCD byte: both nibbles are decimal digits. -/
abbrev isBcd (v : Byte) : Prop := v.toNat / 16 ≤ 9 ∧ v.toNat % 16 ≤ 9

/-- The bytes of an instruction stand at pc in memory where every read returns the cell: RAM or ROM, and no
register of the interrupt controller. Only the bytes that its execution reads are asked for. -/
def State.holdsAt (s : State) (a : Word) (bytes : List Byte) : Prop :=
  match bytes with
  | [] => True
  | v :: rest =>
    (s.kindAt a = .ram ∨ s.kindAt a = .rom) ∧ s.intCtl.register a = none ∧ s.mem.get a.toNat = v ∧
      State.holdsAt s (a + 1) rest

/-- The bytes of an instruction that its execution reads: all of them, but for the byte STOP skips (R204). -/
def fetchedBytes (i : Instr) : List Byte :=
  match i with
  | .stop => [0x10#8]
  | _ => encode i

/-- The history after the bytes at `a` have been read in order. -/
def fetchHistory (h : List BusEvent) (a : Word) (bytes : List Byte) : List BusEvent :=
  match bytes with
  | [] => h
  | v :: rest => fetchHistory (.read a v :: h) (a + 1) rest

end Sys2Proof.Machine
end

