-- ==== Sys2Proof/Certificates/Slice0/Obligations.lean ====
section
/-!
DEFINITION. The statements about the model, one `def Obligations.<Name> : Prop` each. A statement about
what an instruction does has as its conclusion that `exec` answers a next state, and says what that
state holds and that everything else in it is as before.
-/

open Sys2Proof Sys2Proof.Machine

/-! ## Encoding (spec/30_encoding.md) -/

/-- R95: the decoder reads back every well-formed instruction from its encoding, with every operand
at every value, and leaves the bytes after it. -/
def Obligations.DecodeReadsBackEveryEncoding : Prop :=
  ∀ (i : Instr) (rest : List Byte), i.wellFormed = true → decode (encode i ++ rest) = .ok (i, rest)

/-- R92, R93, R95: on any bytes the decoder answers a well-formed instruction of the length that the
first byte gives, whose encoding is those bytes; STOP's second byte alone is not kept (R204). That
the encoder writes 00h there is log entry 17. -/
def Obligations.DecodedBytesAreTheEncoding : Prop :=
  ∀ op b1 b2 : Byte,
    (decodeBytes op b1 b2).wellFormed = true ∧
    instrLength (decodeBytes op b1 b2) = lengthOf op ∧
    (op = 0x10#8 → decodeBytes op b1 b2 = .stop) ∧
    (op ≠ 0x10#8 → encode (decodeBytes op b1 b2) = [op, b1, b2].take (lengthOf op))

/-- R80, R95: a list of bytes decodes exactly when it holds all the bytes that its first byte asks
for. -/
def Obligations.DecodeNeedsExactlyTheLength : Prop :=
  (∀ (op : Byte) (rest : List Byte),
    (∃ r, decode (op :: rest) = .ok r) ↔ lengthOf op ≤ rest.length + 1) ∧
  decode [] = .error .noByte ∧
  ∀ op : Byte, 1 ≤ lengthOf op ∧ lengthOf op ≤ 3

/-- R93: an unassigned opcode is decoded exactly from the eleven bytes of the rule. -/
def Obligations.ElevenFirstBytesAreUnassigned : Prop :=
  ∀ op b1 b2 b : Byte,
    decodeBytes op b1 b2 = .unassigned b ↔
      b = op ∧ op ∈ [0xD3#8, 0xDB#8, 0xDD#8, 0xE3#8, 0xE4#8, 0xEB#8, 0xEC#8, 0xED#8, 0xF4#8,
        0xFC#8, 0xFD#8]

/-- R83 to R92: a few words written out from the spec's Encoding lines, one for each family. -/
def Obligations.SampleWordsDecode : Prop :=
  decode [0b10001110#8] = .ok (.adcHL, []) ∧
  decode [0b00011001#8] = .ok (.addHLR16 .de, []) ∧
  decode [0b11001011#8, 0b01100101#8] = .ok (.bitR8 4 .l, []) ∧
  decode [0b11001101#8, 0x34#8, 0x12#8] = .ok (.call 0x1234#16, []) ∧
  decode [0b01110110#8] = .ok (.halt, []) ∧
  decode [0b00001000#8, 0x00#8, 0xC1#8] = .ok (.ldN16SP 0xC100#16, []) ∧
  decode [0b11001011#8, 0b00110110#8] = .ok (.swapHL, []) ∧
  decode [0b11011101#8] = .ok (.unassigned 0xDD#8, [])

/-! ## 8-bit arithmetic and logic (spec/40_alu8.md) -/

/-- R121, R124 to R129: ADD writes A + y and ADC writes A + y + CF, mod 256, with the carries out of
bits 3 and 7 of that addition; nothing else changes but the pc, and the history by the operand's
read. -/
def Obligations.AddAndAdcWriteTheSum : Prop :=
  ∀ (s : State) (o : ByteSource) (withCarry : Bool),
    let a := s.regs.a.toNat
    let y := (o.value s).toNat
    let c := if withCarry = true ∧ s.flags.c = true then 1 else 0
    exec (aluInstr (if withCarry then .adc else .add) o) s =
      .next { o.after s with
        regs := { s.regs with a := BitVec.ofNat 8 ((a + y + c) % 256) }
        flags :=
          { z := decide ((a + y + c) % 256 = 0)
            n := false
            h := decide (15 < a % 16 + y % 16 + c)
            c := decide (255 < a + y + c) }
        pc := s.pc + BitVec.ofNat 16 o.length }

/-- R122, R146 to R148, R150 to R152: SUB writes A - y and SBC writes A - y - CF, mod 256, with the
borrows into bits 3 and 7; nothing else changes but the pc, and the history by the operand's read. -/
def Obligations.SubAndSbcWriteTheDifference : Prop :=
  ∀ (s : State) (o : ByteSource) (withCarry : Bool),
    let a := s.regs.a.toNat
    let y := (o.value s).toNat
    let c := if withCarry = true ∧ s.flags.c = true then 1 else 0
    exec (aluInstr (if withCarry then .sbc else .sub) o) s =
      .next { o.after s with
        regs := { s.regs with a := BitVec.ofNat 8 ((a + 512 - y - c) % 256) }
        flags :=
          { z := decide ((a + 512 - y - c) % 256 = 0)
            n := true
            h := decide (a % 16 < y % 16 + c)
            c := decide (a < y + c) }
        pc := s.pc + BitVec.ofNat 16 o.length }

/-- R134 to R136: CP writes the flags of A - y and no register: Z says A = y, C says A < y. -/
def Obligations.CpWritesOnlyTheFlagsOfTheDifference : Prop :=
  ∀ (s : State) (o : ByteSource),
    exec (aluInstr .cp o) s =
      .next { o.after s with
        flags :=
          { z := decide (s.regs.a = o.value s)
            n := true
            h := decide (s.regs.a.toNat % 16 < (o.value s).toNat % 16)
            c := decide (s.regs.a.toNat < (o.value s).toNat) }
        pc := s.pc + BitVec.ofNat 16 o.length }

/-- R123, R130 to R132, R143 to R145, R153 to R155: AND, OR and XOR work bit by bit; Z tells a zero
result, H is 1 after AND only, N and C are 0. -/
def Obligations.LogicWritesAAndItsFlags : Prop :=
  ∀ (s : State) (o : ByteSource),
    (exec (aluInstr .and o) s =
      .next { o.after s with
        regs := { s.regs with a := s.regs.a &&& o.value s }
        flags := ⟨decide (s.regs.a &&& o.value s = 0), false, true, false⟩
        pc := s.pc + BitVec.ofNat 16 o.length }) ∧
    (exec (aluInstr .or o) s =
      .next { o.after s with
        regs := { s.regs with a := s.regs.a ||| o.value s }
        flags := ⟨decide (s.regs.a = 0 ∧ o.value s = 0), false, false, false⟩
        pc := s.pc + BitVec.ofNat 16 o.length }) ∧
    (exec (aluInstr .xor o) s =
      .next { o.after s with
        regs := { s.regs with a := s.regs.a ^^^ o.value s }
        flags := ⟨decide (s.regs.a = o.value s), false, false, false⟩
        pc := s.pc + BitVec.ofNat 16 o.length })

/-- R139 to R142: INC and DEC replace a register or the byte at HL by its value plus or minus 1 mod
256, with Z, N and H; C keeps its value. What the address holds then is as its kind (R52), or the
controller's register there (R303), gives it; that the register comes first is the model's reading
(log entry 8). -/
def Obligations.IncAndDecReplaceTheByte : Prop :=
  ∀ (s : State) (x : ByteTarget),
    (∃ t, exec x.inc s = .next t ∧
      x.Replaced s t (BitVec.ofNat 8 (((x.value s).toNat + 1) % 256))
        { z := decide (x.value s = 0xFF#8), n := false
          h := decide ((x.value s).toNat % 16 = 15), c := s.flags.c } 1) ∧
    (∃ t, exec x.dec s = .next t ∧
      x.Replaced s t (BitVec.ofNat 8 (((x.value s).toNat + 255) % 256))
        { z := decide (x.value s = 0x01#8), n := true
          h := decide ((x.value s).toNat % 16 = 0), c := s.flags.c } 1)

/-- R138: DAA after an addition (N = 0) adds the correction that H, C and the old A ask for, after a
subtraction (N = 1) it subtracts the one that H and C ask for; N stays, H becomes 0, C is never
cleared. -/
def Obligations.DaaFollowsItsAlgorithm : Prop :=
  ∀ s : State,
    let a := s.regs.a.toNat
    let low := if s.flags.h = true ∨ (s.flags.n = false ∧ 9 < a % 16) then 6 else 0
    let c := s.flags.c || (!s.flags.n && decide (0x99 < a))
    let u := low + (if c then 0x60 else 0)
    let res := if s.flags.n then (a + 256 - u) % 256 else (a + u) % 256
    exec .daa s =
      .next { s with
        regs := { s.regs with a := BitVec.ofNat 8 res }
        flags := { z := decide (res = 0), n := s.flags.n, h := false, c := c }
        pc := s.pc + 1 }

/-- R138: "DAA adjusts A to packed binary-coded decimal after an addition or subtraction of two
packed BCD bytes": the two digits are those of the sum or difference mod 100, and C tells the
decimal carry or borrow. -/
def Obligations.DaaCorrectsBcdAdditionAndSubtraction : Prop :=
  ∀ (s : State) (y : Byte), isBcd s.regs.a → isBcd y →
    (∃ t u, exec (.addN8 y) s = .next t ∧ exec .daa t = .next u ∧
      isBcd u.regs.a ∧
      bcdValue u.regs.a = (bcdValue s.regs.a + bcdValue y) % 100 ∧
      (u.flags.c = true ↔ 100 ≤ bcdValue s.regs.a + bcdValue y)) ∧
    (∃ t u, exec (.subN8 y) s = .next t ∧ exec .daa t = .next u ∧
      isBcd u.regs.a ∧
      bcdValue u.regs.a = (bcdValue s.regs.a + 100 - bcdValue y) % 100 ∧
      (u.flags.c = true ↔ bcdValue s.regs.a < bcdValue y))

/-- R133, R137, R149: CCF complements C, SCF sets it, CPL complements A; each writes only the flags
its rule names. -/
def Obligations.CcfScfCplWriteTheirFlags : Prop :=
  ∀ s : State,
    exec .ccf s =
      .next { s with flags := ⟨s.flags.z, false, false, !s.flags.c⟩, pc := s.pc + 1 } ∧
    exec .scf s = .next { s with flags := ⟨s.flags.z, false, false, true⟩, pc := s.pc + 1 } ∧
    exec .cpl s =
      .next { s with
        regs := { s.regs with a := BitVec.ofNat 8 (255 - s.regs.a.toNat) }
        flags := ⟨s.flags.z, true, true, s.flags.c⟩
        pc := s.pc + 1 }

/-! ## 16-bit arithmetic (spec/41_alu16.md) -/

/-- R160: ADD HL, r16 writes the sum mod 65536 to H and L, with N 0, H and C the carries out of bits
11 and 15, Z unchanged. -/
def Obligations.AddHLWritesTheSumAndKeepsZ : Prop :=
  ∀ (s : State) (p : R16),
    let a := s.hl.toNat
    let y := (s.r16 p).toNat
    ∃ t, exec (.addHLR16 p) s = .next t ∧
      t.hl.toNat = (a + y) % 65536 ∧
      t = { s with
        regs := { s.regs with h := t.regs.h, l := t.regs.l }
        flags :=
          { z := s.flags.z, n := false, h := decide (4095 < a % 4096 + y % 4096),
            c := decide (65535 < a + y) }
        pc := s.pc + 1 }

/-- R161, R220: ADD SP, e8 writes SP plus the signed offset to SP, LD HL, SP + e8 writes it to HL;
both with Z 0, N 0 and the carries out of bits 3 and 7 of the unsigned low-byte addition. -/
def Obligations.SpPlusOffsetWritesSumAndLowByteCarries : Prop :=
  ∀ (s : State) (e : Byte),
    let sum := ((s.sp.toNat : Int) + e.toInt) % 65536
    let f : Flags :=
      { z := false, n := false, h := decide (15 < s.sp.toNat % 16 + e.toNat % 16),
        c := decide (255 < s.sp.toNat % 256 + e.toNat) }
    (∃ t, exec (.addSPE8 e) s = .next t ∧ (t.sp.toNat : Int) = sum ∧
      t = { s with sp := t.sp, flags := f, pc := s.pc + 2 }) ∧
    (∃ t, exec (.ldHLSPE8 e) s = .next t ∧ (t.hl.toNat : Int) = sum ∧
      t = { s with
        regs := { s.regs with h := t.regs.h, l := t.regs.l }, flags := f, pc := s.pc + 2 })

/-- R162, R163: INC r16 and DEC r16 count a 16-bit register mod 65536 and write no flag; no other
register changes. -/
def Obligations.IncAndDecOf16BitRegistersWriteNoFlag : Prop :=
  ∀ (s : State) (p : R16),
    (∃ t, exec (.incR16 p) s = .next t ∧ (t.r16 p).toNat = ((s.r16 p).toNat + 1) % 65536 ∧
      (∀ q, q ≠ p → t.r16 q = s.r16 q) ∧
      t = { s with regs := { t.regs with a := s.regs.a }, sp := t.sp, pc := s.pc + 1 }) ∧
    (∃ t, exec (.decR16 p) s = .next t ∧ (t.r16 p).toNat = ((s.r16 p).toNat + 65535) % 65536 ∧
      (∀ q, q ≠ p → t.r16 q = s.r16 q) ∧
      t = { s with regs := { t.regs with a := s.regs.a }, sp := t.sp, pc := s.pc + 1 })

/-! ## Bits (spec/42_bit.md) -/

/-- R170, R171: BIT writes Z as the complement of the tested bit, N 0, H 1, keeps C, and writes no
register and no memory; the byte at HL is read once. -/
def Obligations.BitTestsWithoutWriting : Prop :=
  ∀ (s : State) (x : ByteTarget) (k : BitVec 3),
    exec (x.bit k) s =
      .next { s with
        flags := { z := decide ((x.value s).toNat / 2 ^ k.toNat % 2 = 0), n := false, h := true
                   c := s.flags.c }
        pc := s.pc + 2
        history := if x = .mem then .read s.hl (s.readByte s.hl) :: s.history else s.history }

/-- R172 to R175: RES and SET make one bit of a register or of the byte at HL 0 or 1, keep its other
seven bits and write no flag. What the address holds then is as its kind (R52), or the controller's
register there (R303), gives it; that the register comes first is the model's reading (log entry 8).
-/
def Obligations.ResAndSetChangeOneBit : Prop :=
  ∀ (s : State) (x : ByteTarget) (k : BitVec 3),
    (∃ t v, exec (x.res k) s = .next t ∧ x.Replaced s t v s.flags 2 ∧
      ∀ j, j < 8 → v.getLsbD j = (if j = k.toNat then false else (x.value s).getLsbD j)) ∧
    (∃ t v, exec (x.set k) s = .next t ∧ x.Replaced s t v s.flags 2 ∧
      ∀ j, j < 8 → v.getLsbD j = (if j = k.toNat then true else (x.value s).getLsbD j))

/-! ## Rotates and shifts (spec/46_rotate_shift.md) -/

/-- The result of R250, written with the rotations it speaks of: RL and RR as 9-bit rotations of C:x
and x:C. -/
def rotatedByte (k : ShiftName) (x : Byte) (c : Bool) : Byte :=
  match k with
  | .rlc => x.rotateLeft 1
  | .rrc => x.rotateRight 1
  | .rl => ((BitVec.ofBool c ++ x).rotateLeft 1).extractLsb' 0 8
  | .rr => ((x ++ BitVec.ofBool c).rotateRight 1).extractLsb' 1 8
  | .sla => BitVec.ofNat 8 (2 * x.toNat)
  | .sra => x.sshiftRight 1
  | .srl => BitVec.ofNat 8 (x.toNat / 2)
  | .swap => x.rotateLeft 4

/-- The carry-out of R250: the bit moved out, 0 for SWAP. -/
def rotatedCarry (k : ShiftName) (x : Byte) : Bool :=
  match k with
  | .rlc | .rl | .sla => decide (128 ≤ x.toNat)
  | .rrc | .rr | .sra | .srl => decide (x.toNat % 2 = 1)
  | .swap => false

/-- R250 to R252, R254, R255, R257, R258, R260, R261, R263 to R270: the sixteen CBh forms replace a
register or the byte at HL by the rotated or shifted value, with Z from the result, N 0, H 0 and C
the bit moved out. What the address holds then is as its kind (R52), or the controller's register
there (R303), gives it; that the register comes first is the model's reading (log entry 8). -/
def Obligations.RotatesAndShiftsReplaceTheByte : Prop :=
  ∀ (s : State) (x : ByteTarget) (k : ShiftName),
    ∃ t, exec (x.shift k) s = .next t ∧
      x.Replaced s t (rotatedByte k (x.value s) s.flags.c)
        { z := decide (rotatedByte k (x.value s) s.flags.c = 0), n := false, h := false
          c := rotatedCarry k (x.value s) } 2

/-- R250, R253, R256, R259, R262: the four one-byte forms rotate A and write Z 0 whatever the
result. -/
def Obligations.OneByteRotatesOfAWriteZ0 : Prop :=
  ∀ s : State,
    let after := fun (k : ShiftName) =>
      ({ s with
        regs := { s.regs with a := rotatedByte k s.regs.a s.flags.c }
        flags := ⟨false, false, false, rotatedCarry k s.regs.a⟩
        pc := s.pc + 1 } : State)
    exec .rla s = .next (after .rl) ∧ exec .rlca s = .next (after .rlc) ∧
    exec .rra s = .next (after .rr) ∧ exec .rrca s = .next (after .rrc)

/-- R255, R261, R270: RRC undoes RLC on a register, RLC undoes RRC, and SWAP twice restores it. -/
def Obligations.RotatesAndSwapUndoEachOther : Prop :=
  ∀ (s : State) (r : R8),
    (∃ t u, exec (.rlcR8 r) s = .next t ∧ exec (.rrcR8 r) t = .next u ∧ u.regs = s.regs) ∧
    (∃ t u, exec (.rrcR8 r) s = .next t ∧ exec (.rlcR8 r) t = .next u ∧ u.regs = s.regs) ∧
    (∃ t u, exec (.swapR8 r) s = .next t ∧ exec (.swapR8 r) t = .next u ∧ u.regs = s.regs)

/-! ## Loads and stores (spec/45_load.md) -/

/-- R221, R223 to R225: the loads from registers and immediates write their destination and nothing
else; the second byte of a word immediate goes to the high half. -/
def Obligations.RegisterLoadsWriteOnlyTheDestination : Prop :=
  ∀ s : State,
    (∀ r q, ∃ t, exec (.ldR8R8 r q) s = .next t ∧ t.r8 r = s.r8 q ∧
      (∀ x, x ≠ r → t.r8 x = s.r8 x) ∧ t = { s with regs := t.regs, pc := s.pc + 1 }) ∧
    (∀ r n, ∃ t, exec (.ldR8N8 r n) s = .next t ∧ t.r8 r = n ∧
      (∀ x, x ≠ r → t.r8 x = s.r8 x) ∧ t = { s with regs := t.regs, pc := s.pc + 2 }) ∧
    (∀ hi lo : Byte,
      exec (.ldR16N16 .bc (hi ++ lo)) s =
        .next { s with regs := { s.regs with b := hi, c := lo }, pc := s.pc + 3 } ∧
      exec (.ldR16N16 .de (hi ++ lo)) s =
        .next { s with regs := { s.regs with d := hi, e := lo }, pc := s.pc + 3 } ∧
      exec (.ldR16N16 .hl (hi ++ lo)) s =
        .next { s with regs := { s.regs with h := hi, l := lo }, pc := s.pc + 3 } ∧
      exec (.ldR16N16 .sp (hi ++ lo)) s = .next { s with sp := hi ++ lo, pc := s.pc + 3 }) ∧
    exec .ldSPHL s = .next { s with sp := s.regs.h ++ s.regs.l, pc := s.pc + 1 }

/-- R210, R217 to R219, R222, R227, R229, R231: the loads of a byte from memory read the address
their rule gives and write the register; LDI and LDD then move HL by one. No flag is written. -/
def Obligations.MemoryLoadsReadTheirAddress : Prop :=
  ∀ s : State,
    let loaded := fun (a : Word) (n : Nat) =>
      ({ s.afterRead a with
        regs := { s.regs with a := s.readByte a }, pc := s.pc + BitVec.ofNat 16 n } : State)
    (∀ r, ∃ t, exec (.ldR8HL r) s = .next t ∧ t.r8 r = s.readByte s.hl ∧
      (∀ x, x ≠ r → t.r8 x = s.r8 x) ∧
      t = { s.afterRead s.hl with regs := t.regs, pc := s.pc + 1 }) ∧
    exec .ldAC s = .next (loaded (0xFF#8 ++ s.regs.c) 1) ∧
    (∀ n, exec (.ldAN16 n) s = .next (loaded n 3)) ∧
    exec (.ldAR16 .bc) s = .next (loaded s.bc 1) ∧
    exec (.ldAR16 .de) s = .next (loaded s.de 1) ∧
    (∀ e : Byte, exec (.ldhAE8 e) s = .next (loaded (0xFF#8 ++ e) 2)) ∧
    exec .ldiAHL s = .next ((loaded s.hl 1).setHL (s.hl + 1)) ∧
    exec .lddAHL s = .next ((loaded s.hl 1).setHL (s.hl - 1))

/-- R210 to R214, R216, R226, R228, R230: the stores of a byte write it at the address their rule
gives and change no other byte; LDI and LDD then move HL by one; no other register and no flag
changes. What the address holds then is as its kind (R52), or the controller's register there
(R303), gives it; that the register comes first is the model's reading (log entry 8). -/
def Obligations.ByteStoresWriteOnlyTheirAddress : Prop :=
  ∀ s : State,
    let stores := fun (i : Instr) (a : Word) (v : Byte) (n : Nat) =>
      ∃ t, exec i s = .next t ∧ StoresByte s t a v ∧
        ChangesMemoryAndPc s t (s.pc + BitVec.ofNat 16 n)
    stores .ldCA (0xFF#8 ++ s.regs.c) s.regs.a 1 ∧
    (∀ n, stores (.ldHLN8 n) s.hl n 2) ∧
    (∀ r, stores (.ldHLR8 r) s.hl (s.r8 r) 1) ∧
    (∀ n, stores (.ldN16A n) n s.regs.a 3) ∧
    stores (.ldR16A .bc) s.bc s.regs.a 1 ∧
    stores (.ldR16A .de) s.de s.regs.a 1 ∧
    (∀ e : Byte, stores (.ldhE8A e) (0xFF#8 ++ e) s.regs.a 2) ∧
    (∃ t, exec .ldiHLA s = .next t ∧ StoresByte s t s.hl s.regs.a ∧ t.hl = s.hl + 1 ∧
      ChangesMemoryAndPc { s with regs := { s.regs with h := t.regs.h, l := t.regs.l } } t (s.pc + 1)) ∧
    (∃ t, exec .lddHLA s = .next t ∧ StoresByte s t s.hl s.regs.a ∧ t.hl = s.hl - 1 ∧
      ChangesMemoryAndPc { s with regs := { s.regs with h := t.regs.h, l := t.regs.l } } t (s.pc + 1))

/-- R55, R215: LD (n16), SP stores SP's low byte at n16, then its high byte at n16 + 1 mod 65536,
and changes no other byte and no register. What the two addresses hold then is as their kinds (R52),
or the controller's registers there (R303), give it; that the registers come first is the model's
reading (log entry 8). -/
def Obligations.StoreOfSPWritesLowByteFirst : Prop :=
  ∀ (s : State) (n : Word) (hi lo : Byte), s.sp = hi ++ lo →
    ∃ t, exec (.ldN16SP n) s = .next t ∧ StoresTwoBytes s t n lo (n + 1) hi ∧
      ChangesMemoryAndPc s t (s.pc + 3)

/-- R56, R233: PUSH writes the pair's high byte at SP - 1, then its low byte at SP - 2, lowers SP by
2 and changes nothing else. What the two addresses hold then is as their kinds (R52), or the
controller's registers there (R303), give it; that the registers come first is the model's reading
(log entry 8). -/
def Obligations.PushStoresHighByteThenLowByte : Prop :=
  ∀ (s : State) (p : R16Stk) (hi lo : Byte), s.r16Stk p = hi ++ lo →
    ∃ t, exec (.pushR16 p) s = .next t ∧ StoresTwoBytes s t (s.sp - 1) hi (s.sp - 2) lo ∧
      ChangesMemoryAndPc { s with sp := s.sp - 2 } t (s.pc + 1)

/-- R57, R232, R26: POP reads the low half at SP, then the high half at SP + 1, raises SP by 2 and
writes the pair; POP AF loads the four flags from bits 7 to 4 and drops bits 3 to 0. Nothing else
changes. -/
def Obligations.PopLoadsLowHalfThenHighHalf : Prop :=
  ∀ s : State,
    let lo := s.readByte s.sp
    let s1 := s.afterRead s.sp
    let hi := s1.readByte (s.sp + 1)
    let s2 := { s1.afterRead (s.sp + 1) with sp := s.sp + 2, pc := s.pc + 1 }
    exec (.popR16 .bc) s = .next { s2 with regs := { s.regs with b := hi, c := lo } } ∧
    exec (.popR16 .de) s = .next { s2 with regs := { s.regs with d := hi, e := lo } } ∧
    exec (.popR16 .hl) s = .next { s2 with regs := { s.regs with h := hi, l := lo } } ∧
    exec (.popR16 .af) s =
      .next { s2 with
        regs := { s.regs with a := hi }
        flags := ⟨lo.getLsbD 7, lo.getLsbD 6, lo.getLsbD 5, lo.getLsbD 4⟩ }

/-- R57: a pair pushed onto plain RAM and popped again into any pair arrives there, and SP is as
before. AF takes its own value back; a pair popped into AF from another would lose F's low bits
(R26). -/
def Obligations.PopAfterPushReturnsThePair : Prop :=
  ∀ (s : State) (p q : R16Stk), s.mem.wf = true →
    s.plainRam (s.sp - 1) → s.plainRam (s.sp - 2) → (q = .af → p = .af) →
    ∃ t u, exec (.pushR16 p) s = .next t ∧ exec (.popR16 q) t = .next u ∧
      u.r16Stk q = s.r16Stk p ∧ u.sp = s.sp

/-! ## Control transfer (spec/43_control.md) -/

/-- The table of R180. -/
def conditionTrue (cc : Cond) (f : Flags) : Bool :=
  match cc with
  | .nz => decide (f.z = false)
  | .z => decide (f.z = true)
  | .nc => decide (f.c = false)
  | .c => decide (f.c = true)

/-- R180, R181, R182, R192, R194: a call pushes the address of the following instruction and
continues at its target; a CALL cc whose condition is false changes the pc only. What the two
addresses hold then is as their kinds (R52), or the controller's registers there (R303), give it;
that the registers come first is the model's reading (log entry 8). -/
def Obligations.CallsPushTheReturnAddress : Prop :=
  ∀ s : State,
    let calls := fun (i : Instr) (back target : Word) =>
      ∃ t, exec i s = .next t ∧
        StoresTwoBytes s t (s.sp - 1) (hiByte back) (s.sp - 2) (loByte back) ∧
        ChangesMemoryAndPc { s with sp := s.sp - 2 } t target
    (∀ n, calls (.call n) (s.pc + 3) n) ∧
    (∀ cc n, if conditionTrue cc s.flags then calls (.callCC cc n) (s.pc + 3) n
      else exec (.callCC cc n) s = .next { s with pc := s.pc + 3 }) ∧
    (∀ k : BitVec 3, calls (.rst k) (s.pc + 1) (0#10 ++ k ++ 0#3))

/-- R183 to R188: the jumps write the pc and nothing else; a relative target counts from the
instruction that follows, with the offset signed. -/
def Obligations.JumpsWriteOnlyThePc : Prop :=
  ∀ s : State,
    let goesTo := fun (i : Instr) (target : Int) =>
      ∃ t, exec i s = .next t ∧ (t.pc.toNat : Int) = target % 65536 ∧ t = { s with pc := t.pc }
    let pc : Int := s.pc.toNat
    goesTo .jpHL (256 * s.regs.h.toNat + s.regs.l.toNat) ∧
    (∀ n : Word, goesTo (.jp n) n.toNat) ∧
    (∀ cc (n : Word), goesTo (.jpCC cc n) (if conditionTrue cc s.flags then n.toNat else pc + 3)) ∧
    (∀ e : Byte, goesTo (.jr e) (pc + 2 + e.toInt)) ∧
    (∀ cc (e : Byte), goesTo (.jrCC cc e) (if conditionTrue cc s.flags then pc + 2 + e.toInt else pc + 2))

/-- R180, R190, R191, R193: the returns pop the pc; RETI also makes IME 1 at once; a RET cc whose
condition is false changes the pc only. -/
def Obligations.ReturnsPopThePc : Prop :=
  ∀ s : State,
    let lo := s.readByte s.sp
    let s1 := s.afterRead s.sp
    let hi := s1.readByte (s.sp + 1)
    let returned := { s1.afterRead (s.sp + 1) with sp := s.sp + 2, pc := hi ++ lo }
    exec .ret s = .next returned ∧
    (∀ cc, exec (.retCC cc) s =
      .next (if conditionTrue cc s.flags then returned else { s with pc := s.pc + 1 })) ∧
    exec .reti s = .next { returned with ime := true, eiPending := false }

/-- R182, R190: a RET executed in the state a CALL leaves returns to the instruction after the CALL
with SP as it was, where the stack is plain RAM. -/
def Obligations.RetAfterCallReturnsBehindTheCall : Prop :=
  ∀ (s : State) (n : Word), s.mem.wf = true →
    s.plainRam (s.sp - 1) → s.plainRam (s.sp - 2) →
    ∃ t u, exec (.call n) s = .next t ∧ t.pc = n ∧ exec .ret t = .next u ∧
      u.pc = s.pc + 3 ∧ u.sp = s.sp ∧ u.regs = s.regs ∧ u.flags = s.flags

/-! ## System instructions (spec/44_system.md) -/

/-- R200, R201, R203, R204: DI clears IME and the pending EI, EI records itself, NOP moves the pc,
STOP enters Stopped behind its second byte. -/
def Obligations.DiEiNopStopEffects : Prop :=
  ∀ s : State,
    exec .di s = .next { s with ime := false, eiPending := false, pc := s.pc + 1 } ∧
    exec .ei s = .next { s with eiPending := true, pc := s.pc + 1 } ∧
    exec .nop s = .next { s with pc := s.pc + 1 } ∧
    exec .stop s = .next { s with mode := .stopped, pc := s.pc + 2 }

/-- R202: HALT enters Halted behind itself when IME = 1 or no request is pending and enabled;
otherwise it is refused. The refusal is the spec's own (log entry 14). -/
def Obligations.HaltEntersHaltedOrIsRefused : Prop :=
  ∀ s : State,
    (s.ime = true ∨ s.intCtl.pending = none →
      exec .halt s = .next { s with mode := .halted, pc := s.pc + 1 }) ∧
    (s.ime = false → s.intCtl.pending ≠ none → exec .halt s = .refused .haltWithRequestPending)

/-- R306, R310: after the requests of this boundary have arrived, a halted CPU changes nothing while
none is pending and enabled, and runs again when one is, whatever IME is. The list `arrivals` of the
platform's acts is the model's own (log entry 7), and so is that they come before the CPU's step (log
entry 13). -/
def Obligations.HaltedWaitsForAnEnabledRequest : Prop :=
  ∀ s : State, s.arrival.reset = none → s.mode = .halted →
    let c := s.arrival.irqs.foldl IntCtl.event s.intCtl
    (c.pending = none → step s = .next { s with intCtl := c, arrivals := s.arrivals.tail }) ∧
    (c.pending ≠ none →
      step s = .next { s with intCtl := c, arrivals := s.arrivals.tail, mode := .running })

/-- R204, R306: a stopped CPU takes no interrupt, whatever requests arrive, and changes only by
StopWake, which makes it run. The list `arrivals` of the platform's acts is the model's own (log
entry 7), and so is that they come before the CPU's step (log entry 13). -/
def Obligations.StoppedWaitsForStopWake : Prop :=
  ∀ (s : State) (irqs : List IrqEvent) (wake : Bool) (later : List Arrival), s.mode = .stopped →
    s.arrivals = ⟨none, irqs, wake⟩ :: later →
    step s =
      .next { s with
        mode := if wake then .running else .stopped
        intCtl := irqs.foldl IntCtl.event s.intCtl
        arrivals := later }

/-! ## The byte CBh alone and the unassigned bytes -/

/-- R92: the byte CBh runs the instruction that the byte after it names. The constructor for the
table's row, which no bytes decode to, is the model's choice (log entry 15). -/
def Obligations.CBByteRunsTheInstructionOfItsSecondByte : Prop :=
  ∀ s : State,
    ∃ t, exec .prefixCB s = .next t ∧
      exec (decodeCB (s.readByte (s.pc + 1))) (s.afterRead (s.pc + 1)) = .next t

/-- R300: an unassigned opcode puts the CPU into Locked, with the byte recorded and nothing else
changed; from there the machine makes no further step unless a reset arrives: every step is the
fault. That the instruction answers a next state and the step after it the fault is the model's
reading (log entry 11). -/
def Obligations.UnassignedOpcodeLocksTheCpu : Prop :=
  (∀ (s : State) (op : Byte), exec (.unassigned op) s = .next { s with mode := .locked op }) ∧
  (∀ (s : State) (op : Byte), s.mode = .locked op → s.arrival.reset = none →
    step s = .fault (.illegalOpcode op))

/-! ## Memory (spec/20_memory.md) and the registers (spec/10_state.md) -/

/-- R52, R53: where no register of the interrupt controller stands, a read of RAM or ROM returns the
cell and a read of DEVICE or OPEN a draw; the event enters the history and nothing else changes. The
draw is a free value (log entry 4); that the controller's registers come first is the model's
reading (log entry 8). -/
def Obligations.ReadsAnswerByTheKindOfAddress : Prop :=
  ∀ (s : State) (a : Word),
    (s.intCtl.register a = none →
      ((s.kindAt a = .ram ∨ s.kindAt a = .rom) → s.readByte a = s.mem.get a.toNat) ∧
      ((s.kindAt a = .device ∨ s.kindAt a = .unmapped) →
        s.readByte a = Config.busDraw s.history a)) ∧
    s.afterRead a = { s with history := .read a (s.readByte a) :: s.history }

/-- R52, R54: a write to plain RAM is read back and changes no other address; a write to ROM, DEVICE
or OPEN changes nothing but the history, which every write enters. That the controller's registers
come first is the model's reading (log entry 8). -/
def Obligations.WritesActByTheKindOfAddress : Prop :=
  ∀ (s : State) (a : Word) (v : Byte),
    (s.memWrite a v).history = .write a v :: s.history ∧
    (∀ x, x ≠ a → (s.memWrite a v).byteAt x = s.byteAt x) ∧
    (s.mem.wf = true → s.plainRam a → (s.memWrite a v).readByte a = v) ∧
    (s.kindAt a ≠ .ram → s.intCtl.register a = none →
      s.memWrite a v = { s with history := .write a v :: s.history }) ∧
    s.memWrite a v = { s with mem := (s.memWrite a v).mem, intCtl := (s.memWrite a v).intCtl
                              history := .write a v :: s.history }

/-- R22, R26: a pair is its two halves, the first-named the high byte; a write to AF drops bits 3 to
0 of F, which always read 0. -/
def Obligations.PairsAreTheirHalvesAndFHasNoLowBits : Prop :=
  ∀ (s : State) (v : Word),
    s.bc.toNat = 256 * s.regs.b.toNat + s.regs.c.toNat ∧
    s.de.toNat = 256 * s.regs.d.toNat + s.regs.e.toNat ∧
    s.hl.toNat = 256 * s.regs.h.toNat + s.regs.l.toNat ∧
    s.af.toNat = 256 * s.regs.a.toNat + s.f.toNat ∧
    (s.setBC v).bc = v ∧ (s.setDE v).de = v ∧ (s.setHL v).hl = v ∧
    (s.setAF v).af = v &&& 0xFFF0#16 ∧
    s.f &&& 0x0F#8 = 0

/-- R302, R303: the request served is that of the highest priority among those raised and enabled, its
acknowledgement clears that one and no other, and its vector is its source's; a device raises its
request and nothing else. In the Game Boy's controller source n is bit n of IE and IF, the lowest
first, at 0040h + 8 * n, and a device sets its bit of IF. A controller given by a list of sources,
highest priority first, and the acts `withdraw` and `enable` of its platform are the model's own
(log entries 7 and 10); the Game Boy's platform has neither. -/
def Obligations.ControllersRaiseServeAndAcknowledgeRequests : Prop :=
  (∀ (ie : Byte) (irq : BitVec 5),
    let c := IntCtl.gameBoy ie irq
    let due := fun (k : Nat) => ie.getLsbD k = true ∧ irq.getLsbD k = true
    (c.pending = none ↔ ∀ k, k < 5 → ¬due k) ∧
    (∀ n, c.pending = some n →
      n < 5 ∧ due n ∧ (∀ k, k < n → ¬due k) ∧ (c.vector n).toNat = 0x40 + 8 * n) ∧
    (∀ n, ∃ irq', c.acknowledge n = .gameBoy ie irq' ∧
      ∀ k, k < 5 → irq'.getLsbD k = (irq.getLsbD k && decide (k ≠ n))) ∧
    (∀ n, ∃ irq', c.event (.raise n) = .gameBoy ie irq' ∧
      ∀ k, k < 5 → irq'.getLsbD k = (irq.getLsbD k || decide (k = n))) ∧
    ∀ n on, c.event (.withdraw n) = c ∧ c.event (.enable n on) = c) ∧
  ∀ (l : List Source) (m : Option Word),
    let c := IntCtl.sources l m
    let due := fun (k : Nat) => ∃ x, l[k]? = some x ∧ x.enabled = true ∧ x.raised = true
    let changesOnly := fun (n : Nat) (f : Source → Source) (d : IntCtl) =>
      ∃ l', d = .sources l' m ∧ ∀ k, l'[k]? = l[k]?.map fun x => if k = n then f x else x
    (c.pending = none ↔ ∀ k, ¬due k) ∧
    (∀ n, c.pending = some n →
      due n ∧ (∀ k, k < n → ¬due k) ∧ l[n]?.map (·.vector) = some (c.vector n)) ∧
    ∀ n on,
      changesOnly n (fun x => { x with raised := false }) (c.acknowledge n) ∧
      changesOnly n (fun x => { x with raised := true }) (c.event (.raise n)) ∧
      changesOnly n (fun x => { x with raised := false }) (c.event (.withdraw n)) ∧
      changesOnly n (fun x => { x with enabled := on }) (c.event (.enable n on))

/-- R303: the CPU reads and writes the Game Boy's controller with ordinary loads and stores: IE at
FFFFh is a whole byte, of IF at FF0Fh the five low bits are kept and read back. Nothing but the
history changes beside. That this holds whatever the kind of the address is the model's reading (log
entry 8). -/
def Obligations.CpuReadsAndWritesIEAndIF : Prop :=
  ∀ (s : State) (ie : Byte) (irq : BitVec 5) (v : Byte), s.intCtl = .gameBoy ie irq →
    s.readByte 0xFFFF#16 = ie ∧
    (s.readByte 0xFF0F#16).extractLsb' 0 5 = irq ∧
    s.memWrite 0xFFFF#16 v =
      { s with intCtl := .gameBoy v irq, history := .write 0xFFFF#16 v :: s.history } ∧
    s.memWrite 0xFF0F#16 v =
      { s with
        intCtl := .gameBoy ie (BitVec.ofNat 5 (v.toNat % 32))
        history := .write 0xFF0F#16 v :: s.history }

/-! ## The step, interrupts and reset (spec/60_exceptions.md, spec/70_reset_and_hazards.md) -/

/-- R95, R306: when no interrupt is due after the requests of this boundary have arrived, a running CPU
whose bytes at pc decode to the well-formed instruction i reads those bytes in order and executes i
with ei_pending 0. If an EI was pending, IME then becomes 1, unless i is DI; that it does not after
an unassigned opcode is the model's reading (log entry 12), and so is that the instruction itself
answers no fault (log entry 11). The list `arrivals` is the model's own (log entries 7 and 13). -/
def Obligations.StepRunsTheDecodedInstruction : Prop :=
  ∀ (s : State) (i : Instr), i.wellFormed = true → s.arrival.reset = none → s.mode = .running →
    let c := s.arrival.irqs.foldl IntCtl.event s.intCtl
    (s.ime = false ∨ c.pending = none) → s.holdsAt s.pc (fetchedBytes i) →
    let fetched :=
      { s with
        eiPending := false
        intCtl := c
        history := fetchHistory s.history s.pc (fetchedBytes i)
        arrivals := s.arrivals.tail }
    (∀ t, exec i fetched = .next t →
      (s.eiPending = true → i ≠ .di → (∀ op, i ≠ .unassigned op) →
        step s = .next { t with ime := true }) ∧
      (s.eiPending = false ∨ i = .di ∨ (∃ op, i = .unassigned op) → step s = .next t)) ∧
    (∀ e, exec i fetched = .refused e → step s = .refused e) ∧
    ∀ e, exec i fetched ≠ .fault e

/-- R306, R308: an interrupt that is due after the requests of this boundary have arrived is entered
before any byte at pc is read: IME and the pending EI become 0, the pc is pushed, SP falls by 2, the
pc is the vector, the request is acknowledged, and no register or flag changes. The list `arrivals`
is the model's own (log entries 7 and 13). What the two addresses hold then is as their kinds (R52),
or the controller's registers there (R303), give it; that the registers come first is the model's
reading (log entry 8). -/
def Obligations.InterruptEntrySavesThePcAndMasksInterrupts : Prop :=
  ∀ (s : State) (n : Nat), s.arrival.reset = none → s.mode = .running → s.ime = true →
    let c := s.arrival.irqs.foldl IntCtl.event s.intCtl
    c.pending = some n → c.maskAddr ≠ some (s.sp - 1) → c.maskAddr ≠ some (s.sp - 2) →
    ∃ t, step s = .next t ∧
      StoresTwoBytes { s with intCtl := c.acknowledge n } t
        (s.sp - 1) (hiByte s.pc) (s.sp - 2) (loByte s.pc) ∧
      ChangesMemoryAndPc
        { s with ime := false, eiPending := false, sp := s.sp - 2, arrivals := s.arrivals.tail } t
        (c.vector n)

/-- R308: an interrupt entry whose push would write the byte of the enable mask is refused. The list
`arrivals` is the model's own (log entries 7 and 13); the refusal is the spec's (log entry 14). -/
def Obligations.InterruptEntryOverTheEnableMaskIsRefused : Prop :=
  ∀ (s : State) (n : Nat), s.arrival.reset = none → s.mode = .running → s.ime = true →
    let c := s.arrival.irqs.foldl IntCtl.event s.intCtl
    c.pending = some n →
    (c.maskAddr = some (s.sp - 1) ∨ c.maskAddr = some (s.sp - 2)) →
    step s = .refused .entryOverwritesEnableMask

/-- R201, R306, R307: EI then NOP, from IME = 0 with no EI pending and whatever requests arrive: no
interrupt is entered between them, IME is 0 after EI and 1 after NOP. The list `arrivals` is the
model's own (log entry 7). -/
def Obligations.EiEnablesAfterTheNextInstruction : Prop :=
  ∀ s : State, s.mode = .running → s.ime = false → s.eiPending = false →
    (∀ x ∈ s.arrivals, x.reset = none) → s.holdsAt s.pc [0xFB#8, 0x00#8] →
    ∃ t u, step s = .next t ∧ t.ime = false ∧ t.pc = s.pc + 1 ∧
      step t = .next u ∧ u.ime = true ∧ u.eiPending = false ∧ u.pc = s.pc + 2 ∧
      u.mem = s.mem ∧ u.sp = s.sp

/-- R200, R306: EI then DI, from IME = 0 with no EI pending and whatever requests arrive, never
enables interrupts. The list `arrivals` is the model's own (log entry 7). -/
def Obligations.EiThenDiNeverEnables : Prop :=
  ∀ s : State, s.mode = .running → s.ime = false → s.eiPending = false →
    (∀ x ∈ s.arrivals, x.reset = none) → s.holdsAt s.pc [0xFB#8, 0xF3#8] →
    ∃ t u, step s = .next t ∧ t.ime = false ∧
      step t = .next u ∧ u.ime = false ∧ u.eiPending = false ∧ u.pc = s.pc + 2 ∧
      u.mem = s.mem ∧ u.sp = s.sp

/-- R340, R341, R344: a reset that arrives, in any mode, gives every item of CPU state its `ResetState`
value, with ei_pending 0 and mode Running, keeps memory, and leaves the Game Boy's IE 00h; the step
goes on from there. R344 leaves it to the platform which requests are raised after a reset, and
which sources of another controller are enabled: in the model none but those that the events of the
same arrival set (log entry 25). That a reset arrives at a boundary, and the CPU's step follows in
the same step, is the model's choice (log entry 13). -/
def Obligations.ResetSetsEveryItemOfCpuState : Prop :=
  ∀ (s : State) (r : ResetState) (irqs : List IrqEvent) (wake : Bool) (later : List Arrival),
    s.arrivals = ⟨some r, irqs, wake⟩ :: later →
    let c :=
      match s.intCtl with
      | .gameBoy _ _ => IntCtl.gameBoy 0x00#8 0#5
      | .sources l m => .sources (l.map fun x => ⟨x.vector, false, false⟩) m
    step s =
      State.cpuStep
        { regs := r.regs, flags := r.flags, sp := r.sp, pc := r.pc, ime := r.ime
          eiPending := false, mode := .running, mem := s.mem, bus := s.bus
          intCtl := irqs.foldl IntCtl.event c, history := s.history, arrivals := later } wake

/-- R36, R340: the reset state has pc 0000h, IME 0, ei_pending 0, mode Running and the low bits of F
0. The other registers are the model's choice (log entry 1) and are not stated. That the instance is
`bare` is the model's choice (log entry 20). -/
def Obligations.ResetStateHasTheSpecifiedValues : Prop :=
  State.reset.pc = 0x0000#16 ∧ State.reset.ime = false ∧ State.reset.eiPending = false ∧
    State.reset.mode = .running ∧ State.reset.f &&& 0x0F#8 = 0

/-! ## Rules of the whole machine -/

/-- The canonical form of memory, the meaning of a waiting EI and of mode Locked hold at reset. The
canonical form is the model's own (log entry 3). -/
def Obligations.ResetStateMeetsTheInvariant : Prop := State.reset.Inv

/-- R29, R30, R93, R306: every step keeps the invariant: memory in its canonical form, an EI waits
only while the CPU runs, and the byte recorded in Locked is one of the eleven. The canonical form is
the model's own (log entry 3). -/
def Obligations.EveryStepKeepsTheInvariant : Prop :=
  ∀ s t : State, s.Inv → step s = .next t → t.Inv

/-- R27: an instruction outside the rule's table leaves all four flags unchanged. -/
def Obligations.OnlyTheListedInstructionsWriteFlags : Prop :=
  ∀ (i : Instr) (s t : State), writesFlags i = false → exec i s = .next t → t.flags = s.flags

/-- R27: "N and H are read by nothing but DAA and PUSH AF": every other instruction, run from two
states that differ only in N and H, answers alike but for N and H. -/
def Obligations.OnlyDaaAndPushAFReadNAndH : Prop :=
  ∀ (i : Instr) (s : State) (n h : Bool), i ≠ .daa → i ≠ .pushR16 .af →
    match exec i s, exec i (s.withNH n h) with
    | .next t, .next u => u = t.withNH u.flags.n u.flags.h
    | .refused e, .refused f => e = f
    | _, _ => False

/-- R23: an instruction that the rule does not list as a writer of SP leaves SP unchanged. -/
def Obligations.OnlyTheListedInstructionsWriteSP : Prop :=
  ∀ (i : Instr) (s t : State), writesSP i = false → exec i s = .next t → t.sp = s.sp

/-- R51, R60: an instruction that stores nothing leaves every byte of memory and the interrupt
controller as they were, and puts only reads into the history. -/
def Obligations.OnlyTheStoringInstructionsWriteMemory : Prop :=
  ∀ (i : Instr) (s t : State), writesMemory i = false → exec i s = .next t →
    (∀ a, t.byteAt a = s.byteAt a) ∧ t.mem = s.mem ∧ t.intCtl = s.intCtl ∧
    ∃ l, t.history = l ++ s.history ∧ ∀ e ∈ l, ∃ a v, e = .read a v

/-- R28: DI and RETI are the only instructions whose own effect changes IME. -/
def Obligations.OnlyDiAndRetiChangeIme : Prop :=
  ∀ (i : Instr) (s t : State), i ≠ .di → i ≠ .reti → exec i s = .next t → t.ime = s.ime

/-- R52: no step of the machine changes a ROM byte or the kind of an address. -/
def Obligations.NoStepChangesRom : Prop :=
  ∀ (s t : State), step s = .next t →
    t.bus = s.bus ∧
    ∀ a : Word, s.kindAt a = .rom → s.intCtl.register a = none → t.byteAt a = s.byteAt a

/-- R53, R54, R63: the history only grows: what a step adds stands in front of all that was there.
The history as one list in State is the model's form of it (log entry 18). -/
def Obligations.EveryStepOnlyAddsToTheHistory : Prop :=
  ∀ s t : State, step s = .next t → ∃ l, t.history = l ++ s.history

/-- R301: no instruction but HALT can fail to complete, from any state. For two constructors the next
state is the model's choice and not R301's: an unassigned opcode, to which R300 gives the fault, goes
to Locked (log entry 11), and the byte CBh alone, which R92 calls no instruction, runs the
instruction of the next byte (log entry 15). -/
def Obligations.EveryInstructionButHaltCompletes : Prop :=
  ∀ (i : Instr) (s : State), i ≠ .halt → ∃ t, exec i s = .next t
end

