-- ==== Sys2Proof/Laws/State.lean ====
section
/-!
SUPPORT. What each named update of the state does to each field, one lemma per field, so that no proof
unfolds a record update.
-/

namespace Sys2Proof.Machine

variable (s : State)

/-! ## `State.setReg8` -/

@[simp] theorem State.setReg8_regs (r : R8) (v : Byte) :
    (s.setReg8 r v).regs = s.regs.set8 r v := rfl
@[simp] theorem State.setReg8_flags (r : R8) (v : Byte) : (s.setReg8 r v).flags = s.flags := rfl
@[simp] theorem State.setReg8_sp (r : R8) (v : Byte) : (s.setReg8 r v).sp = s.sp := rfl
@[simp] theorem State.setReg8_pc (r : R8) (v : Byte) : (s.setReg8 r v).pc = s.pc := rfl
@[simp] theorem State.setReg8_ime (r : R8) (v : Byte) : (s.setReg8 r v).ime = s.ime := rfl
@[simp] theorem State.setReg8_eiPending (r : R8) (v : Byte) :
    (s.setReg8 r v).eiPending = s.eiPending := rfl
@[simp] theorem State.setReg8_mode (r : R8) (v : Byte) : (s.setReg8 r v).mode = s.mode := rfl
@[simp] theorem State.setReg8_mem (r : R8) (v : Byte) : (s.setReg8 r v).mem = s.mem := rfl
@[simp] theorem State.setReg8_bus (r : R8) (v : Byte) : (s.setReg8 r v).bus = s.bus := rfl
@[simp] theorem State.setReg8_intCtl (r : R8) (v : Byte) : (s.setReg8 r v).intCtl = s.intCtl := rfl
@[simp] theorem State.setReg8_history (r : R8) (v : Byte) :
    (s.setReg8 r v).history = s.history := rfl
@[simp] theorem State.setReg8_arrivals (r : R8) (v : Byte) :
    (s.setReg8 r v).arrivals = s.arrivals := rfl

/-! ## `State.setBC` -/

@[simp] theorem State.setBC_regs (v : Word) :
    (s.setBC v).regs = { s.regs with b := hiByte v, c := loByte v } := rfl
@[simp] theorem State.setBC_flags (v : Word) : (s.setBC v).flags = s.flags := rfl
@[simp] theorem State.setBC_sp (v : Word) : (s.setBC v).sp = s.sp := rfl
@[simp] theorem State.setBC_pc (v : Word) : (s.setBC v).pc = s.pc := rfl
@[simp] theorem State.setBC_ime (v : Word) : (s.setBC v).ime = s.ime := rfl
@[simp] theorem State.setBC_eiPending (v : Word) : (s.setBC v).eiPending = s.eiPending := rfl
@[simp] theorem State.setBC_mode (v : Word) : (s.setBC v).mode = s.mode := rfl
@[simp] theorem State.setBC_mem (v : Word) : (s.setBC v).mem = s.mem := rfl
@[simp] theorem State.setBC_bus (v : Word) : (s.setBC v).bus = s.bus := rfl
@[simp] theorem State.setBC_intCtl (v : Word) : (s.setBC v).intCtl = s.intCtl := rfl
@[simp] theorem State.setBC_history (v : Word) : (s.setBC v).history = s.history := rfl
@[simp] theorem State.setBC_arrivals (v : Word) : (s.setBC v).arrivals = s.arrivals := rfl

/-! ## `State.setDE` -/

@[simp] theorem State.setDE_regs (v : Word) :
    (s.setDE v).regs = { s.regs with d := hiByte v, e := loByte v } := rfl
@[simp] theorem State.setDE_flags (v : Word) : (s.setDE v).flags = s.flags := rfl
@[simp] theorem State.setDE_sp (v : Word) : (s.setDE v).sp = s.sp := rfl
@[simp] theorem State.setDE_pc (v : Word) : (s.setDE v).pc = s.pc := rfl
@[simp] theorem State.setDE_ime (v : Word) : (s.setDE v).ime = s.ime := rfl
@[simp] theorem State.setDE_eiPending (v : Word) : (s.setDE v).eiPending = s.eiPending := rfl
@[simp] theorem State.setDE_mode (v : Word) : (s.setDE v).mode = s.mode := rfl
@[simp] theorem State.setDE_mem (v : Word) : (s.setDE v).mem = s.mem := rfl
@[simp] theorem State.setDE_bus (v : Word) : (s.setDE v).bus = s.bus := rfl
@[simp] theorem State.setDE_intCtl (v : Word) : (s.setDE v).intCtl = s.intCtl := rfl
@[simp] theorem State.setDE_history (v : Word) : (s.setDE v).history = s.history := rfl
@[simp] theorem State.setDE_arrivals (v : Word) : (s.setDE v).arrivals = s.arrivals := rfl

/-! ## `State.setHL` -/

@[simp] theorem State.setHL_regs (v : Word) :
    (s.setHL v).regs = { s.regs with h := hiByte v, l := loByte v } := rfl
@[simp] theorem State.setHL_flags (v : Word) : (s.setHL v).flags = s.flags := rfl
@[simp] theorem State.setHL_sp (v : Word) : (s.setHL v).sp = s.sp := rfl
@[simp] theorem State.setHL_pc (v : Word) : (s.setHL v).pc = s.pc := rfl
@[simp] theorem State.setHL_ime (v : Word) : (s.setHL v).ime = s.ime := rfl
@[simp] theorem State.setHL_eiPending (v : Word) : (s.setHL v).eiPending = s.eiPending := rfl
@[simp] theorem State.setHL_mode (v : Word) : (s.setHL v).mode = s.mode := rfl
@[simp] theorem State.setHL_mem (v : Word) : (s.setHL v).mem = s.mem := rfl
@[simp] theorem State.setHL_bus (v : Word) : (s.setHL v).bus = s.bus := rfl
@[simp] theorem State.setHL_intCtl (v : Word) : (s.setHL v).intCtl = s.intCtl := rfl
@[simp] theorem State.setHL_history (v : Word) : (s.setHL v).history = s.history := rfl
@[simp] theorem State.setHL_arrivals (v : Word) : (s.setHL v).arrivals = s.arrivals := rfl

/-! ## `State.setSP` -/

@[simp] theorem State.setSP_regs (v : Word) : (s.setSP v).regs = s.regs := rfl
@[simp] theorem State.setSP_flags (v : Word) : (s.setSP v).flags = s.flags := rfl
@[simp] theorem State.setSP_sp (v : Word) : (s.setSP v).sp = v := rfl
@[simp] theorem State.setSP_pc (v : Word) : (s.setSP v).pc = s.pc := rfl
@[simp] theorem State.setSP_ime (v : Word) : (s.setSP v).ime = s.ime := rfl
@[simp] theorem State.setSP_eiPending (v : Word) : (s.setSP v).eiPending = s.eiPending := rfl
@[simp] theorem State.setSP_mode (v : Word) : (s.setSP v).mode = s.mode := rfl
@[simp] theorem State.setSP_mem (v : Word) : (s.setSP v).mem = s.mem := rfl
@[simp] theorem State.setSP_bus (v : Word) : (s.setSP v).bus = s.bus := rfl
@[simp] theorem State.setSP_intCtl (v : Word) : (s.setSP v).intCtl = s.intCtl := rfl
@[simp] theorem State.setSP_history (v : Word) : (s.setSP v).history = s.history := rfl
@[simp] theorem State.setSP_arrivals (v : Word) : (s.setSP v).arrivals = s.arrivals := rfl

/-! ## `State.setAF` -/

@[simp] theorem State.setAF_regs (v : Word) :
    (s.setAF v).regs = { s.regs with a := hiByte v } := rfl
@[simp] theorem State.setAF_flags (v : Word) : (s.setAF v).flags = unpackFlags (loByte v) := rfl
@[simp] theorem State.setAF_sp (v : Word) : (s.setAF v).sp = s.sp := rfl
@[simp] theorem State.setAF_pc (v : Word) : (s.setAF v).pc = s.pc := rfl
@[simp] theorem State.setAF_ime (v : Word) : (s.setAF v).ime = s.ime := rfl
@[simp] theorem State.setAF_eiPending (v : Word) : (s.setAF v).eiPending = s.eiPending := rfl
@[simp] theorem State.setAF_mode (v : Word) : (s.setAF v).mode = s.mode := rfl
@[simp] theorem State.setAF_mem (v : Word) : (s.setAF v).mem = s.mem := rfl
@[simp] theorem State.setAF_bus (v : Word) : (s.setAF v).bus = s.bus := rfl
@[simp] theorem State.setAF_intCtl (v : Word) : (s.setAF v).intCtl = s.intCtl := rfl
@[simp] theorem State.setAF_history (v : Word) : (s.setAF v).history = s.history := rfl
@[simp] theorem State.setAF_arrivals (v : Word) : (s.setAF v).arrivals = s.arrivals := rfl

/-! ## `State.setFlags` -/

@[simp] theorem State.setFlags_regs (f : Flags) : (s.setFlags f).regs = s.regs := rfl
@[simp] theorem State.setFlags_flags (f : Flags) : (s.setFlags f).flags = f := rfl
@[simp] theorem State.setFlags_sp (f : Flags) : (s.setFlags f).sp = s.sp := rfl
@[simp] theorem State.setFlags_pc (f : Flags) : (s.setFlags f).pc = s.pc := rfl
@[simp] theorem State.setFlags_ime (f : Flags) : (s.setFlags f).ime = s.ime := rfl
@[simp] theorem State.setFlags_eiPending (f : Flags) : (s.setFlags f).eiPending = s.eiPending := rfl
@[simp] theorem State.setFlags_mode (f : Flags) : (s.setFlags f).mode = s.mode := rfl
@[simp] theorem State.setFlags_mem (f : Flags) : (s.setFlags f).mem = s.mem := rfl
@[simp] theorem State.setFlags_bus (f : Flags) : (s.setFlags f).bus = s.bus := rfl
@[simp] theorem State.setFlags_intCtl (f : Flags) : (s.setFlags f).intCtl = s.intCtl := rfl
@[simp] theorem State.setFlags_history (f : Flags) : (s.setFlags f).history = s.history := rfl
@[simp] theorem State.setFlags_arrivals (f : Flags) : (s.setFlags f).arrivals = s.arrivals := rfl

/-! ## `State.setAResult` -/

@[simp] theorem State.setAResult_regs (r : Byte × Flags) :
    (s.setAResult r).regs = { s.regs with a := r.1 } := rfl
@[simp] theorem State.setAResult_flags (r : Byte × Flags) : (s.setAResult r).flags = r.2 := rfl
@[simp] theorem State.setAResult_sp (r : Byte × Flags) : (s.setAResult r).sp = s.sp := rfl
@[simp] theorem State.setAResult_pc (r : Byte × Flags) : (s.setAResult r).pc = s.pc := rfl
@[simp] theorem State.setAResult_ime (r : Byte × Flags) : (s.setAResult r).ime = s.ime := rfl
@[simp] theorem State.setAResult_eiPending (r : Byte × Flags) :
    (s.setAResult r).eiPending = s.eiPending := rfl
@[simp] theorem State.setAResult_mode (r : Byte × Flags) : (s.setAResult r).mode = s.mode := rfl
@[simp] theorem State.setAResult_mem (r : Byte × Flags) : (s.setAResult r).mem = s.mem := rfl
@[simp] theorem State.setAResult_bus (r : Byte × Flags) : (s.setAResult r).bus = s.bus := rfl
@[simp] theorem State.setAResult_intCtl (r : Byte × Flags) :
    (s.setAResult r).intCtl = s.intCtl := rfl
@[simp] theorem State.setAResult_history (r : Byte × Flags) :
    (s.setAResult r).history = s.history := rfl
@[simp] theorem State.setAResult_arrivals (r : Byte × Flags) :
    (s.setAResult r).arrivals = s.arrivals := rfl

/-! ## `State.jump` -/

@[simp] theorem State.jump_regs (t : Word) : (s.jump t).regs = s.regs := rfl
@[simp] theorem State.jump_flags (t : Word) : (s.jump t).flags = s.flags := rfl
@[simp] theorem State.jump_sp (t : Word) : (s.jump t).sp = s.sp := rfl
@[simp] theorem State.jump_pc (t : Word) : (s.jump t).pc = t := rfl
@[simp] theorem State.jump_ime (t : Word) : (s.jump t).ime = s.ime := rfl
@[simp] theorem State.jump_eiPending (t : Word) : (s.jump t).eiPending = s.eiPending := rfl
@[simp] theorem State.jump_mode (t : Word) : (s.jump t).mode = s.mode := rfl
@[simp] theorem State.jump_mem (t : Word) : (s.jump t).mem = s.mem := rfl
@[simp] theorem State.jump_bus (t : Word) : (s.jump t).bus = s.bus := rfl
@[simp] theorem State.jump_intCtl (t : Word) : (s.jump t).intCtl = s.intCtl := rfl
@[simp] theorem State.jump_history (t : Word) : (s.jump t).history = s.history := rfl
@[simp] theorem State.jump_arrivals (t : Word) : (s.jump t).arrivals = s.arrivals := rfl

/-! ## `State.advance` -/

@[simp] theorem State.advance_regs (n : Nat) : (s.advance n).regs = s.regs := rfl
@[simp] theorem State.advance_flags (n : Nat) : (s.advance n).flags = s.flags := rfl
@[simp] theorem State.advance_sp (n : Nat) : (s.advance n).sp = s.sp := rfl
@[simp] theorem State.advance_pc (n : Nat) : (s.advance n).pc = s.pc + BitVec.ofNat 16 n := rfl
@[simp] theorem State.advance_ime (n : Nat) : (s.advance n).ime = s.ime := rfl
@[simp] theorem State.advance_eiPending (n : Nat) : (s.advance n).eiPending = s.eiPending := rfl
@[simp] theorem State.advance_mode (n : Nat) : (s.advance n).mode = s.mode := rfl
@[simp] theorem State.advance_mem (n : Nat) : (s.advance n).mem = s.mem := rfl
@[simp] theorem State.advance_bus (n : Nat) : (s.advance n).bus = s.bus := rfl
@[simp] theorem State.advance_intCtl (n : Nat) : (s.advance n).intCtl = s.intCtl := rfl
@[simp] theorem State.advance_history (n : Nat) : (s.advance n).history = s.history := rfl
@[simp] theorem State.advance_arrivals (n : Nat) : (s.advance n).arrivals = s.arrivals := rfl

/-! ## `State.afterRead` -/

@[simp] theorem State.afterRead_regs (a : Word) : (s.afterRead a).regs = s.regs := rfl
@[simp] theorem State.afterRead_flags (a : Word) : (s.afterRead a).flags = s.flags := rfl
@[simp] theorem State.afterRead_sp (a : Word) : (s.afterRead a).sp = s.sp := rfl
@[simp] theorem State.afterRead_pc (a : Word) : (s.afterRead a).pc = s.pc := rfl
@[simp] theorem State.afterRead_ime (a : Word) : (s.afterRead a).ime = s.ime := rfl
@[simp] theorem State.afterRead_eiPending (a : Word) :
    (s.afterRead a).eiPending = s.eiPending := rfl
@[simp] theorem State.afterRead_mode (a : Word) : (s.afterRead a).mode = s.mode := rfl
@[simp] theorem State.afterRead_mem (a : Word) : (s.afterRead a).mem = s.mem := rfl
@[simp] theorem State.afterRead_bus (a : Word) : (s.afterRead a).bus = s.bus := rfl
@[simp] theorem State.afterRead_intCtl (a : Word) : (s.afterRead a).intCtl = s.intCtl := rfl
@[simp] theorem State.afterRead_history (a : Word) :
    (s.afterRead a).history = .read a (s.readByte a) :: s.history := rfl
@[simp] theorem State.afterRead_arrivals (a : Word) : (s.afterRead a).arrivals = s.arrivals := rfl

/-! ## `State.raiseIllegalOpcode` -/

@[simp] theorem State.raiseIllegalOpcode_regs (op : Byte) :
    (s.raiseIllegalOpcode op).regs = s.regs := rfl
@[simp] theorem State.raiseIllegalOpcode_flags (op : Byte) :
    (s.raiseIllegalOpcode op).flags = s.flags := rfl
@[simp] theorem State.raiseIllegalOpcode_sp (op : Byte) : (s.raiseIllegalOpcode op).sp = s.sp := rfl
@[simp] theorem State.raiseIllegalOpcode_pc (op : Byte) : (s.raiseIllegalOpcode op).pc = s.pc := rfl
@[simp] theorem State.raiseIllegalOpcode_ime (op : Byte) :
    (s.raiseIllegalOpcode op).ime = s.ime := rfl
@[simp] theorem State.raiseIllegalOpcode_eiPending (op : Byte) :
    (s.raiseIllegalOpcode op).eiPending = s.eiPending := rfl
@[simp] theorem State.raiseIllegalOpcode_mode (op : Byte) :
    (s.raiseIllegalOpcode op).mode = .locked op := rfl
@[simp] theorem State.raiseIllegalOpcode_mem (op : Byte) :
    (s.raiseIllegalOpcode op).mem = s.mem := rfl
@[simp] theorem State.raiseIllegalOpcode_bus (op : Byte) :
    (s.raiseIllegalOpcode op).bus = s.bus := rfl
@[simp] theorem State.raiseIllegalOpcode_intCtl (op : Byte) :
    (s.raiseIllegalOpcode op).intCtl = s.intCtl := rfl
@[simp] theorem State.raiseIllegalOpcode_history (op : Byte) :
    (s.raiseIllegalOpcode op).history = s.history := rfl
@[simp] theorem State.raiseIllegalOpcode_arrivals (op : Byte) :
    (s.raiseIllegalOpcode op).arrivals = s.arrivals := rfl

/-! ## `State.resetTo` -/

@[simp] theorem State.resetTo_regs (r : ResetState) : (s.resetTo r).regs = r.regs := rfl
@[simp] theorem State.resetTo_flags (r : ResetState) : (s.resetTo r).flags = r.flags := rfl
@[simp] theorem State.resetTo_sp (r : ResetState) : (s.resetTo r).sp = r.sp := rfl
@[simp] theorem State.resetTo_pc (r : ResetState) : (s.resetTo r).pc = r.pc := rfl
@[simp] theorem State.resetTo_ime (r : ResetState) : (s.resetTo r).ime = r.ime := rfl
@[simp] theorem State.resetTo_eiPending (r : ResetState) : (s.resetTo r).eiPending = false := rfl
@[simp] theorem State.resetTo_mode (r : ResetState) : (s.resetTo r).mode = .running := rfl
@[simp] theorem State.resetTo_mem (r : ResetState) : (s.resetTo r).mem = s.mem := rfl
@[simp] theorem State.resetTo_bus (r : ResetState) : (s.resetTo r).bus = s.bus := rfl
@[simp] theorem State.resetTo_intCtl (r : ResetState) :
    (s.resetTo r).intCtl = s.intCtl.afterReset := rfl
@[simp] theorem State.resetTo_history (r : ResetState) : (s.resetTo r).history = s.history := rfl
@[simp] theorem State.resetTo_arrivals (r : ResetState) : (s.resetTo r).arrivals = s.arrivals := rfl

/-! ## The updates of a 16-bit register -/

@[simp] theorem State.setReg16_flags (p : R16) (v : Word) :
    (s.setReg16 p v).flags = s.flags := by cases p <;> rfl
@[simp] theorem State.setReg16_pc (p : R16) (v : Word) :
    (s.setReg16 p v).pc = s.pc := by cases p <;> rfl
@[simp] theorem State.setReg16_ime (p : R16) (v : Word) :
    (s.setReg16 p v).ime = s.ime := by cases p <;> rfl
@[simp] theorem State.setReg16_eiPending (p : R16) (v : Word) :
    (s.setReg16 p v).eiPending = s.eiPending := by cases p <;> rfl
@[simp] theorem State.setReg16_mode (p : R16) (v : Word) :
    (s.setReg16 p v).mode = s.mode := by cases p <;> rfl
@[simp] theorem State.setReg16_mem (p : R16) (v : Word) :
    (s.setReg16 p v).mem = s.mem := by cases p <;> rfl
@[simp] theorem State.setReg16_bus (p : R16) (v : Word) :
    (s.setReg16 p v).bus = s.bus := by cases p <;> rfl
@[simp] theorem State.setReg16_intCtl (p : R16) (v : Word) :
    (s.setReg16 p v).intCtl = s.intCtl := by cases p <;> rfl
@[simp] theorem State.setReg16_history (p : R16) (v : Word) :
    (s.setReg16 p v).history = s.history := by cases p <;> rfl
@[simp] theorem State.setReg16_arrivals (p : R16) (v : Word) :
    (s.setReg16 p v).arrivals = s.arrivals := by cases p <;> rfl

@[simp] theorem State.setReg16Stk_sp (p : R16Stk) (v : Word) :
    (s.setReg16Stk p v).sp = s.sp := by cases p <;> rfl
@[simp] theorem State.setReg16Stk_pc (p : R16Stk) (v : Word) :
    (s.setReg16Stk p v).pc = s.pc := by cases p <;> rfl
@[simp] theorem State.setReg16Stk_ime (p : R16Stk) (v : Word) :
    (s.setReg16Stk p v).ime = s.ime := by cases p <;> rfl
@[simp] theorem State.setReg16Stk_eiPending (p : R16Stk) (v : Word) :
    (s.setReg16Stk p v).eiPending = s.eiPending := by cases p <;> rfl
@[simp] theorem State.setReg16Stk_mode (p : R16Stk) (v : Word) :
    (s.setReg16Stk p v).mode = s.mode := by cases p <;> rfl
@[simp] theorem State.setReg16Stk_mem (p : R16Stk) (v : Word) :
    (s.setReg16Stk p v).mem = s.mem := by cases p <;> rfl
@[simp] theorem State.setReg16Stk_bus (p : R16Stk) (v : Word) :
    (s.setReg16Stk p v).bus = s.bus := by cases p <;> rfl
@[simp] theorem State.setReg16Stk_intCtl (p : R16Stk) (v : Word) :
    (s.setReg16Stk p v).intCtl = s.intCtl := by cases p <;> rfl
@[simp] theorem State.setReg16Stk_history (p : R16Stk) (v : Word) :
    (s.setReg16Stk p v).history = s.history := by cases p <;> rfl
@[simp] theorem State.setReg16Stk_arrivals (p : R16Stk) (v : Word) :
    (s.setReg16Stk p v).arrivals = s.arrivals := by cases p <;> rfl

/-! ## Reading back what was written -/

theorem wordOf_toNat (h l : Byte) : (wordOf h l).toNat = 256 * h.toNat + l.toNat := by
  have e : (wordOf h l).toNat = h.toNat <<< 8 ||| l.toNat := BitVec.toNat_append h l
  rw [e, Nat.shiftLeft_eq, Nat.mul_comm, ← Nat.two_pow_add_eq_or_of_lt l.isLt]

theorem hiByte_toNat (v : Word) : (hiByte v).toNat = v.toNat / 256 := by
  have := v.isLt
  simp [hiByte, BitVec.extractLsb'_toNat, Nat.shiftRight_eq_div_pow]; omega

theorem loByte_toNat (v : Word) : (loByte v).toNat = v.toNat % 256 := by
  simp [loByte, BitVec.extractLsb'_toNat]

theorem wordOf_hi_lo (v : Word) : wordOf (hiByte v) (loByte v) = v := by
  apply BitVec.eq_of_toNat_eq
  rw [wordOf_toNat, hiByte_toNat, loByte_toNat]; omega

@[simp] theorem hiByte_wordOf (h l : Byte) : hiByte (wordOf h l) = h := by
  apply BitVec.eq_of_toNat_eq
  rw [hiByte_toNat, wordOf_toNat]; omega

@[simp] theorem loByte_wordOf (h l : Byte) : loByte (wordOf h l) = l := by
  apply BitVec.eq_of_toNat_eq
  rw [loByte_toNat, wordOf_toNat]; omega
@[simp] theorem State.setReg8_r8_same (r : R8) (v : Byte) : (s.setReg8 r v).r8 r = v := by
  cases r <;> rfl

theorem State.setReg8_r8_other {r q : R8} (v : Byte) (h : q ≠ r) :
    (s.setReg8 r v).r8 q = s.r8 q := by
  cases r <;> cases q <;> first | rfl | exact absurd rfl h

@[simp] theorem State.setBC_bc (v : Word) : (s.setBC v).bc = v := wordOf_hi_lo v

@[simp] theorem State.setDE_de (v : Word) : (s.setDE v).de = v := wordOf_hi_lo v

@[simp] theorem State.setHL_hl (v : Word) : (s.setHL v).hl = v := wordOf_hi_lo v

@[simp] theorem State.setReg16_r16_same (p : R16) (v : Word) : (s.setReg16 p v).r16 p = v := by
  cases p <;> first | rfl | exact wordOf_hi_lo v

theorem State.setReg16_r16_other {p q : R16} (v : Word) (h : q ≠ p) :
    (s.setReg16 p v).r16 q = s.r16 q := by
  cases p <;> cases q <;> first | rfl | exact absurd rfl h

/-- F written and read back through its four flags (R26). -/
theorem unpack_pack (f : Flags) : unpackFlags (packFlags f) = f := by
  rcases f with ⟨z, n, h, c⟩
  cases z <;> cases n <;> cases h <;> cases c <;> rfl

end Sys2Proof.Machine
end

