-- ==== Sys2Proof/Laws/Memory.lean ====
section
/-!
SUPPORT. What the operations over memory can do: the list of cells, one byte of memory, the stack. Proofs
cite these lemmas and never unfold the operations.
-/

namespace Sys2Proof.Machine

/-! ## The list of cells -/

theorem Memory.wfFrom_mono {m : Memory} {j k : Nat} (h : j ≤ k) (w : Memory.wfFrom k m = true) :
    Memory.wfFrom j m = true := by
  cases m with
  | nil => rfl
  | cons x rest =>
    simp only [Memory.wfFrom, Bool.and_eq_true, decide_eq_true_eq] at w ⊢
    exact ⟨⟨⟨by omega, w.1.1.2⟩, w.1.2⟩, w.2⟩

/-- A cell below every listed address reads as an unlisted one. -/
theorem Memory.get_below {m : Memory} {k a : Nat} (w : Memory.wfFrom k m = true) (h : a < k) :
    m.get a = Config.unlistedByte := by
  induction m generalizing k with
  | nil => rfl
  | cons x rest ih =>
    simp only [Memory.wfFrom, Bool.and_eq_true, decide_eq_true_eq] at w
    simp only [Memory.get]
    rw [if_neg (by omega)]
    exact ih w.2 (by omega)

/-- A write leaves every other cell alone, in any list. -/
theorem Memory.get_set_other {m : Memory} {a b : Nat} (v : Byte) (h : b ≠ a) :
    (m.set a v).get b = m.get b := by
  induction m with
  | nil => simp only [Memory.set]; split <;> simp [Memory.get, h.symm]
  | cons x rest ih =>
    obtain ⟨k, w⟩ := x
    simp only [Memory.set]
    split
    · split <;> simp [Memory.get, h.symm]
    · split
      · subst a
        split <;> simp [Memory.get, h.symm]
      · simp only [Memory.get, ih]

/-- A read after a write of the same cell gives what was written, in the canonical form. -/
theorem Memory.get_set_same {m : Memory} {k a : Nat} (v : Byte) (w : Memory.wfFrom k m = true) :
    (m.set a v).get a = v := by
  induction m generalizing k with
  | nil => simp only [Memory.set]; split <;> simp_all [Memory.get]
  | cons x rest ih =>
    have ww := w
    simp only [Memory.wfFrom, Bool.and_eq_true, decide_eq_true_eq] at w
    simp only [Memory.set]
    split
    · split
      · next h e => rw [e]; exact Memory.get_below (k := x.1) (by simp [Memory.wfFrom, w]) h
      · simp [Memory.get]
    · split
      · split
        · next e h => rw [h]; exact Memory.get_below w.2 (by omega)
        · simp [Memory.get]
      · next h => simp only [Memory.get]; rw [if_neg (by omega)]; exact ih w.2

/-- A write keeps the canonical form. -/
theorem Memory.wfFrom_set {m : Memory} {k a : Nat} (v : Byte) (w : Memory.wfFrom k m = true)
    (hk : k ≤ a) (ha : a < 65536) : Memory.wfFrom k (m.set a v) = true := by
  induction m generalizing k with
  | nil => simp only [Memory.set]; split <;> simp_all [Memory.wfFrom]
  | cons x rest ih =>
    simp only [Memory.wfFrom, Bool.and_eq_true, decide_eq_true_eq] at w
    simp only [Memory.set]
    split
    · split <;> simp_all [Memory.wfFrom]
    · split
      · split
        · exact Memory.wfFrom_mono (by omega) w.2
        · simp_all [Memory.wfFrom]
      · simp only [Memory.wfFrom, Bool.and_eq_true, decide_eq_true_eq]
        exact ⟨w.1, ih w.2 (by omega)⟩

theorem Memory.wf_set {m : Memory} (a : Word) (v : Byte) (w : m.wf = true) :
    (m.set a.toNat v).wf = true :=
  Memory.wfFrom_set v w (Nat.zero_le _) a.isLt

theorem State.reset_mem_wf : State.reset.mem.wf = true := rfl

/-! ## One byte (R53, R54) -/

/-- Where the controller has no register a read does not find one, and conversely. -/
theorem IntCtl.readRegister_none (c : IntCtl) (h : List BusEvent) (a : Word) :
    c.readRegister h a = none ↔ c.register a = none := by
  cases c <;> simp only [IntCtl.readRegister, IntCtl.register]
  split <;> (try split) <;> simp

/-- A write changes the controller exactly where it has a register. -/
theorem IntCtl.writeRegister_none (c : IntCtl) (a : Word) (v : Byte) :
    c.writeRegister a v = none ↔ c.register a = none := by
  cases c <;> simp only [IntCtl.writeRegister, IntCtl.register]
  split <;> (try split) <;> simp

/-- A write to a register of the controller leaves its other registers alone. -/
theorem IntCtl.writeRegister_other {c c' : IntCtl} {a x : Word} {v : Byte}
    (h : c.writeRegister a v = some c') (hx : x ≠ a) : c'.register x = c.register x := by
  cases c with
  | sources l m => simp [IntCtl.writeRegister] at h
  | gameBoy ie irq =>
    simp only [IntCtl.writeRegister] at h
    split at h
    · next ha => cases h; rw [ha] at hx; simp [IntCtl.register, hx]
    · split at h
      · next ha => cases h; rw [ha] at hx; simp [IntCtl.register, hx]
      · cases h

/-- The kind of a controller does not depend on what it holds: registers stand where they stood. -/
theorem IntCtl.writeRegister_register {c c' : IntCtl} {a : Word} {v : Byte}
    (h : c.writeRegister a v = some c') (x : Word) :
    c'.register x = none ↔ c.register x = none := by
  cases c with
  | sources l m => simp [IntCtl.writeRegister] at h
  | gameBoy ie irq =>
    simp only [IntCtl.writeRegister] at h
    split at h
    · cases h; simp only [IntCtl.register]; split <;> simp
    · split at h
      · cases h; simp only [IntCtl.register]; split <;> (try split) <;> simp
      · cases h

/-- A write touches memory, the controller's registers and the history, and nothing else. -/
theorem State.memWrite_eq (s : State) (a : Word) (v : Byte) :
    s.memWrite a v =
      { s with
        mem := (s.memWrite a v).mem
        intCtl := (s.memWrite a v).intCtl
        history := .write a v :: s.history } := by
  simp only [State.memWrite]
  split
  · rfl
  · split <;> rfl

@[simp] theorem State.memWrite_regs (s : State) (a : Word) (v : Byte) :
    (s.memWrite a v).regs = s.regs := by rw [State.memWrite_eq]

@[simp] theorem State.memWrite_flags (s : State) (a : Word) (v : Byte) :
    (s.memWrite a v).flags = s.flags := by rw [State.memWrite_eq]

@[simp] theorem State.memWrite_sp (s : State) (a : Word) (v : Byte) :
    (s.memWrite a v).sp = s.sp := by rw [State.memWrite_eq]

@[simp] theorem State.memWrite_pc (s : State) (a : Word) (v : Byte) :
    (s.memWrite a v).pc = s.pc := by rw [State.memWrite_eq]

@[simp] theorem State.memWrite_ime (s : State) (a : Word) (v : Byte) :
    (s.memWrite a v).ime = s.ime := by rw [State.memWrite_eq]

@[simp] theorem State.memWrite_eiPending (s : State) (a : Word) (v : Byte) :
    (s.memWrite a v).eiPending = s.eiPending := by rw [State.memWrite_eq]

@[simp] theorem State.memWrite_mode (s : State) (a : Word) (v : Byte) :
    (s.memWrite a v).mode = s.mode := by rw [State.memWrite_eq]

@[simp] theorem State.memWrite_bus (s : State) (a : Word) (v : Byte) :
    (s.memWrite a v).bus = s.bus := by rw [State.memWrite_eq]

@[simp] theorem State.memWrite_history (s : State) (a : Word) (v : Byte) :
    (s.memWrite a v).history = .write a v :: s.history := by rw [State.memWrite_eq]

@[simp] theorem State.memWrite_arrivals (s : State) (a : Word) (v : Byte) :
    (s.memWrite a v).arrivals = s.arrivals := by rw [State.memWrite_eq]

/-- A write leaves the kind of every address alone. -/
@[simp] theorem State.memWrite_kindAt (s : State) (a x : Word) (v : Byte) :
    (s.memWrite a v).kindAt x = s.kindAt x := by simp [State.kindAt]

/-- All that a write can do to memory and the controller (R52, R54, R303). -/
theorem State.memWrite_cases (s : State) (a : Word) (v : Byte) :
    (∃ c, s.intCtl.writeRegister a v = some c ∧ (s.memWrite a v).mem = s.mem ∧
      (s.memWrite a v).intCtl = c) ∨
    (s.intCtl.register a = none ∧ s.kindAt a = .ram ∧
      (s.memWrite a v).mem = s.mem.set a.toNat v ∧ (s.memWrite a v).intCtl = s.intCtl) ∨
    (s.intCtl.register a = none ∧ s.kindAt a ≠ .ram ∧
      (s.memWrite a v).mem = s.mem ∧ (s.memWrite a v).intCtl = s.intCtl) := by
  cases hc : s.intCtl.writeRegister a v with
  | some c => exact .inl ⟨c, rfl, by simp [State.memWrite, hc], by simp [State.memWrite, hc]⟩
  | none =>
    have hr := (IntCtl.writeRegister_none _ _ _).1 hc
    cases hk : s.kindAt a <;> simp [State.memWrite, hc, hk, hr]

/-- A write keeps the canonical form of memory. -/
theorem State.memWrite_wf (s : State) (a : Word) (v : Byte) (w : s.mem.wf = true) :
    (s.memWrite a v).mem.wf = true := by
  rcases s.memWrite_cases a v with ⟨_, _, h, _⟩ | ⟨_, _, h, _⟩ | ⟨_, _, h, _⟩ <;> rw [h]
  · exact w
  · exact Memory.wf_set a v w
  · exact w

/-- Registers of the controller stand after a write where they stood before. -/
theorem State.memWrite_register_none (s : State) (a x : Word) (v : Byte) :
    (s.memWrite a v).intCtl.register x = none ↔ s.intCtl.register x = none := by
  rcases s.memWrite_cases a v with ⟨c, hc, _, h⟩ | ⟨_, _, _, h⟩ | ⟨_, _, _, h⟩ <;> rw [h]
  exact IntCtl.writeRegister_register hc x

/-- A write where the controller has no register leaves the controller alone. -/
theorem State.memWrite_intCtl (s : State) (a : Word) (v : Byte) (h : s.intCtl.register a = none) :
    (s.memWrite a v).intCtl = s.intCtl := by
  rcases s.memWrite_cases a v with ⟨c, hc, _, _⟩ | ⟨_, _, _, e⟩ | ⟨_, _, _, e⟩
  · rw [(IntCtl.writeRegister_none _ _ _).2 h] at hc; cases hc
  · exact e
  · exact e

theorem Word.toNat_ne {a x : Word} (h : x ≠ a) : x.toNat ≠ a.toNat :=
  fun e => h (BitVec.eq_of_toNat_eq e)

/-- A write leaves every other address alone. -/
theorem State.memWrite_byteAt_other (s : State) {a x : Word} (v : Byte) (h : x ≠ a) :
    (s.memWrite a v).byteAt x = s.byteAt x := by
  simp only [State.byteAt]
  rcases s.memWrite_cases a v with ⟨c, hc, hm, hi⟩ | ⟨_, _, hm, hi⟩ | ⟨_, _, hm, hi⟩ <;> rw [hm, hi]
  · rw [IntCtl.writeRegister_other hc h]
  · rw [Memory.get_set_other v (Word.toNat_ne h)]

/-- The byte at an address of plain RAM is its cell. -/
theorem State.byteAt_plain {s : State} {a : Word} (h : s.intCtl.register a = none) :
    s.byteAt a = s.mem.get a.toNat := by simp [State.byteAt, h]

/-- A read of RAM or ROM where the controller has no register gives the byte the address holds. -/
theorem State.readByte_plain {s : State} {a : Word} (h : s.intCtl.register a = none)
    (k : s.kindAt a = .ram ∨ s.kindAt a = .rom) : s.readByte a = s.mem.get a.toNat := by
  rcases k with k | k <;> simp [State.readByte, (IntCtl.readRegister_none _ s.history a).2 h, k]

/-- A read of DEVICE or OPEN where the controller has no register is a free draw. -/
theorem State.readByte_draw {s : State} {a : Word} (h : s.intCtl.register a = none)
    (k : s.kindAt a = .device ∨ s.kindAt a = .unmapped) :
    s.readByte a = Config.busDraw s.history a := by
  rcases k with k | k <;> simp [State.readByte, (IntCtl.readRegister_none _ s.history a).2 h, k]

/-- A byte stored in plain RAM is the byte there. -/
theorem State.memWrite_byteAt_same {s : State} {a : Word} (v : Byte) (w : s.mem.wf = true)
    (p : s.plainRam a) : (s.memWrite a v).byteAt a = v := by
  obtain ⟨pk, pr⟩ := p
  rcases s.memWrite_cases a v with ⟨c, hc, _, _⟩ | ⟨_, _, hm, hi⟩ | ⟨_, hk, _, _⟩
  · rw [(IntCtl.writeRegister_none _ _ _).2 pr] at hc; cases hc
  · rw [State.byteAt_plain (by rw [hi]; exact pr), hm]; exact Memory.get_set_same v w
  · exact absurd pk hk

/-- A store that does not reach plain RAM leaves the cells alone. -/
theorem State.memWrite_mem {s : State} {a : Word} (v : Byte) (p : ¬s.plainRam a) :
    (s.memWrite a v).mem = s.mem := by
  rcases s.memWrite_cases a v with ⟨_, _, hm, _⟩ | ⟨hr, hk, _, _⟩ | ⟨_, _, hm, _⟩
  · exact hm
  · exact absurd ⟨hk, hr⟩ p
  · exact hm

/-- A store where the controller has no register leaves it alone. -/
theorem IntCtl.afterStore_none {c : IntCtl} {a : Word} (v : Byte) (h : c.register a = none) :
    c.afterStore a v = c := by
  cases c with
  | sources l m => rfl
  | gameBoy ie irq =>
    by_cases h1 : a = 0xFFFF#16
    · simp [IntCtl.register, ieAddr, h1] at h
    · by_cases h2 : a = 0xFF0F#16
      · simp [IntCtl.register, ieAddr, ifAddr, h2] at h
      · simp [IntCtl.afterStore, h1, h2]

/-- What the controller makes of a store that it takes. -/
theorem IntCtl.afterStore_some {c c' : IntCtl} {a : Word} {v : Byte}
    (h : c.writeRegister a v = some c') : c.afterStore a v = c' := by
  cases c with
  | sources l m => simp [IntCtl.writeRegister] at h
  | gameBoy ie irq =>
    by_cases h1 : a = 0xFFFF#16
    · simp_all [IntCtl.writeRegister, ieAddr, IntCtl.afterStore]
    · by_cases h2 : a = 0xFF0F#16
      · have e : BitVec.ofNat 5 (v.toNat % 32) = v.extractLsb' 0 5 :=
          BitVec.eq_of_toNat_eq (by simp [BitVec.extractLsb'_toNat])
        simp_all [IntCtl.writeRegister, ieAddr, ifAddr, IntCtl.afterStore]
      · simp [IntCtl.writeRegister, ieAddr, ifAddr, h1, h2] at h

/-- The controller after a store (R303). -/
theorem State.memWrite_controller (s : State) (a : Word) (v : Byte) :
    (s.memWrite a v).intCtl = s.intCtl.afterStore a v := by
  rcases s.memWrite_cases a v with ⟨c, hc, _, e⟩ | ⟨hr, _, _, e⟩ | ⟨hr, _, _, e⟩ <;> rw [e]
  · rw [IntCtl.afterStore_some hc]
  · rw [IntCtl.afterStore_none v hr]
  · rw [IntCtl.afterStore_none v hr]

/-- A store to ROM, DEVICE or OPEN leaves the byte there (R52). -/
theorem State.memWrite_byteAt_notRam {s : State} {a : Word} (v : Byte) (k : s.kindAt a ≠ .ram)
    (r : s.intCtl.register a = none) : (s.memWrite a v).byteAt a = s.byteAt a := by
  have hr : (s.memWrite a v).intCtl.register a = none := (s.memWrite_register_none a a v).2 r
  rw [State.byteAt_plain hr, State.byteAt_plain r, State.memWrite_mem v fun p => k p.1]

/-- What a store of one byte is, in the terms of Safety.lean. -/
theorem State.memWrite_storesByte (s : State) (a : Word) (v : Byte) :
    StoresByte s (s.memWrite a v) a v where
  other _ h := s.memWrite_byteAt_other v h
  plain w p := State.memWrite_byteAt_same v w p
  notRam k r := State.memWrite_byteAt_notRam v k r
  notPlain p := State.memWrite_mem v p
  controller := s.memWrite_controller a v
  history := s.memWrite_history a v

/-- What was stored is read off memory, the controller and the history: no other field matters. -/
theorem StoresByte.into {s t u : State} {a : Word} {v : Byte} (h : StoresByte s t a v)
    (m : u.mem = t.mem) (c : u.intCtl = t.intCtl) (e : u.history = t.history) :
    StoresByte s u a v := by
  have b : u.byteAt = t.byteAt := by funext x; simp only [State.byteAt, m, c]
  exact ⟨b ▸ h.other, b ▸ h.plain, b ▸ h.notRam, m ▸ h.notPlain, c ▸ h.controller, e ▸ h.history⟩

/-- The same of two stored bytes. -/
theorem StoresTwoBytes.into {s t u : State} {a b : Word} {v w : Byte} (h : StoresTwoBytes s t a v b w)
    (m : u.mem = t.mem) (c : u.intCtl = t.intCtl) (e : u.history = t.history) :
    StoresTwoBytes s u a v b w := by
  have x : u.byteAt = t.byteAt := by funext x; simp only [State.byteAt, m, c]
  exact ⟨x ▸ h.other, x ▸ h.plainA, x ▸ h.plainB, x ▸ h.notRamA, x ▸ h.notRamB, m ▸ h.notPlain,
    c ▸ h.controller, e ▸ h.history⟩

/-- Plain RAM is plain RAM after a store. -/
theorem State.memWrite_plainRam (s : State) (a x : Word) (v : Byte) :
    (s.memWrite a v).plainRam x ↔ s.plainRam x := by
  simp [State.plainRam, State.memWrite_register_none]

/-! ## Two bytes and the stack (R55 to R57) -/

/-- Two stores at different addresses, in the terms of Safety.lean. -/
theorem State.memWrite_storesTwoBytes (s : State) {a b : Word} (v w : Byte) (h : a ≠ b) :
    StoresTwoBytes s ((s.memWrite a v).memWrite b w) a v b w where
  other x ha hb := by
    rw [State.memWrite_byteAt_other _ _ hb, State.memWrite_byteAt_other _ _ ha]
  plainA hw p := by rw [State.memWrite_byteAt_other _ _ h, State.memWrite_byteAt_same v hw p]
  plainB hw p :=
    State.memWrite_byteAt_same w (s.memWrite_wf a v hw) ((s.memWrite_plainRam a b v).2 p)
  notRamA k r := by
    rw [State.memWrite_byteAt_other _ _ h, State.memWrite_byteAt_notRam v k r]
  notRamB k r := by
    rw [State.memWrite_byteAt_notRam w (by simpa using k) ((s.memWrite_register_none a b v).2 r),
      State.memWrite_byteAt_other _ _ h.symm]
  notPlain p q := by
    rw [State.memWrite_mem w fun x => q ((s.memWrite_plainRam a b v).1 x), State.memWrite_mem v p]
  controller := by rw [State.memWrite_controller, State.memWrite_controller]
  history := by simp

/-- The stack pointer does not enter a write. -/
theorem State.setSP_memWrite (s : State) (p a : Word) (v : Byte) :
    (s.setSP p).memWrite a v = (s.memWrite a v).setSP p := by
  simp only [State.memWrite, State.setSP, State.kindAt]
  split
  · rfl
  · split <;> rfl

/-- All that a push does: SP falls by 2, the high byte is stored at SP - 1, then the low byte at SP - 2. -/
theorem State.push16_eq (s : State) (v : Word) :
    s.push16 v =
      ((s.memWrite (s.sp - 1) (hiByte v)).memWrite (s.sp - 2) (loByte v)).setSP (s.sp - 2) := by
  simp only [State.push16, State.setSP_memWrite]; rfl

theorem Word.sub_one_ne_sub_two (a : Word) : a - 1 ≠ a - 2 := by bv_omega

theorem Word.ne_add_one (a : Word) : a ≠ a + 1 := by bv_omega

/-- The bytes a push stores. -/
theorem State.push16_stores (s : State) (v : Word) :
    StoresTwoBytes s (s.push16 v) (s.sp - 1) (hiByte v) (s.sp - 2) (loByte v) := by
  rw [State.push16_eq]
  exact (s.memWrite_storesTwoBytes _ _ (Word.sub_one_ne_sub_two s.sp)).into rfl rfl rfl

/-- A state that keeps the fields no store touches, but for SP. -/
theorem State.eq_of_stores {s t : State} {v : Word} (h1 : t.regs = s.regs) (h2 : t.flags = s.flags)
    (h3 : t.sp = v) (h4 : t.pc = s.pc) (h5 : t.ime = s.ime) (h6 : t.eiPending = s.eiPending)
    (h7 : t.mode = s.mode) (h8 : t.bus = s.bus) (h9 : t.arrivals = s.arrivals) :
    t = { s with sp := v, mem := t.mem, intCtl := t.intCtl, history := t.history } := by
  cases t
  simp_all

/-- What a push leaves alone. -/
theorem State.push16_frame (s : State) (v : Word) :
    s.push16 v =
      { s with
        sp := s.sp - 2
        mem := (s.push16 v).mem
        intCtl := (s.push16 v).intCtl
        history := (s.push16 v).history } := by
  apply State.eq_of_stores <;> simp [State.push16_eq]

/-- A push keeps the canonical form of memory. -/
theorem State.push16_wf (s : State) (v : Word) (w : s.mem.wf = true) : (s.push16 v).mem.wf = true := by
  rw [State.push16_eq]
  exact State.memWrite_wf _ _ _ (State.memWrite_wf _ _ _ w)

/-- All that a pop does to the state: two reads, at SP and SP + 1, and SP rises by 2. -/
theorem State.afterPop_eq (s : State) :
    s.afterPop =
      { s with
        sp := s.sp + 2
        history :=
          .read (s.sp + 1) ((s.afterRead s.sp).readByte (s.sp + 1)) ::
            .read s.sp (s.readByte s.sp) :: s.history } := rfl

end Sys2Proof.Machine
end

