-- ==== Sys2Proof/Laws/Run.lean ====
section
/-!
SUPPORT. What the operations shared by the meanings, the boundary and the step can do, said once each.
-/

namespace Sys2Proof.Machine

/-! ## The shared forms of Operands.lean -/

/-- An operation on A writes A, the flags and the pc. -/
theorem aluA_eq (op : Byte → Byte → Byte × Flags) (y : Byte) (n : Nat) (s : State) :
    aluA op y n s =
      { s with
        regs := { s.regs with a := (op s.regs.a y).1 }
        flags := (op s.regs.a y).2
        pc := s.pc + BitVec.ofNat 16 n } := rfl

/-- An operation on A and the byte at HL reads that byte once, then is as on any other byte. -/
theorem aluAHL_eq (op : Byte → Byte → Byte × Flags) (s : State) :
    aluAHL op s =
      { s.afterRead s.hl with
        regs := { s.regs with a := (op s.regs.a (s.readByte s.hl)).1 }
        flags := (op s.regs.a (s.readByte s.hl)).2
        pc := s.pc + 1 } := rfl

/-- A comparison writes the flags and the pc. -/
theorem compareA_eq (y : Byte) (n : Nat) (s : State) :
    compareA y n s =
      { s with flags := (sub8 s.regs.a y false).2, pc := s.pc + BitVec.ofNat 16 n } := rfl

/-- A register replaced: no other register, and no memory, changes. -/
theorem modifyR8_replaced (op : Byte → Byte × Flags) (r : R8) (n : Nat) (s : State) :
    (ByteTarget.reg r).Replaced s (modifyR8 op r n s) (op (s.r8 r)).1 (op (s.r8 r)).2 n :=
  ⟨s.setReg8_r8_same r _, fun _ h => s.setReg8_r8_other _ h, rfl⟩

/-- A state whose memory, controller and history alone differ from another's. -/
theorem ChangesMemoryAndPc.memWrite (s : State) (a : Word) (v : Byte) (f : Flags) (n : Nat) :
    ChangesMemoryAndPc { s with flags := f }
      ((((s.afterRead a).memWrite a v).setFlags f).advance n) (s.pc + BitVec.ofNat 16 n) := by
  unfold ChangesMemoryAndPc
  rw [State.memWrite_eq]
  simp [State.setFlags, State.advance, State.afterRead]

/-- The byte at HL replaced: read once, written once, and no register changes. -/
theorem modifyHL_replaced (op : Byte → Byte × Flags) (n : Nat) (s : State) :
    ByteTarget.mem.Replaced s (modifyHL op n s) (op (s.readByte s.hl)).1 (op (s.readByte s.hl)).2 n :=
  ⟨((s.afterRead s.hl).memWrite_storesByte s.hl _).into rfl rfl rfl,
    ChangesMemoryAndPc.memWrite s s.hl _ _ n⟩

/-- The return of RET, RET cc and RETI: SP, the history and the pc. -/
theorem State.returnFromStack_eq (s : State) :
    s.returnFromStack =
      { s with
        sp := s.sp + 2
        pc := s.popValue
        history :=
          .read (s.sp + 1) ((s.afterRead s.sp).readByte (s.sp + 1)) ::
            .read s.sp (s.readByte s.sp) :: s.history } := rfl

/-- A call stores the return address below SP and leaves all but memory, SP and the pc alone. -/
theorem State.callTo_spec (s : State) (back target : Word) :
    StoresTwoBytes s (s.callTo back target) (s.sp - 1) (hiByte back) (s.sp - 2) (loByte back) ∧
      ChangesMemoryAndPc { s with sp := s.sp - 2 } (s.callTo back target) target := by
  refine ⟨(s.push16_stores back).into rfl rfl rfl, ?_⟩
  unfold ChangesMemoryAndPc State.callTo State.jump
  rw [State.push16_frame]

/-! ## The boundary -/

/-- What the platform's acts leave alone (R341, R344, R348). -/
theorem State.afterArrival_frame (s : State) :
    s.afterArrival.mem = s.mem ∧ s.afterArrival.bus = s.bus ∧
      s.afterArrival.history = s.history ∧ s.afterArrival.arrivals = s.arrivals.tail := by
  simp only [State.afterArrival]
  split <;> exact ⟨rfl, rfl, rfl, rfl⟩

/-- Without a reset the platform's acts change the controller and take the arrival off the list. -/
theorem State.afterArrival_noReset {s : State} (h : s.arrival.reset = none) :
    s.afterArrival =
      { s with
        arrivals := s.arrivals.tail
        intCtl := s.arrival.irqs.foldl IntCtl.event s.intCtl } := by
  simp [State.afterArrival, h]

/-- A step at a boundary without a reset is the CPU's step once the controller's events are done. -/
theorem step_noReset {s : State} (h : s.arrival.reset = none) :
    step s =
      State.cpuStep
        { s with
          arrivals := s.arrivals.tail
          intCtl := s.arrival.irqs.foldl IntCtl.event s.intCtl } s.arrival.stopWake := by
  rw [step, State.afterArrival_noReset h]

/-- A boundary at which nothing arrives changes nothing. -/
theorem State.afterArrival_quiet {s : State} (h : s.arrivals = []) : s.afterArrival = s := by
  cases s
  simp_all [State.afterArrival, State.arrival, quietArrival]

/-- A step with nothing arriving is the CPU's step. -/
theorem step_quiet {s : State} (h : s.arrivals = []) : step s = s.cpuStep false := by
  simp [step, State.afterArrival_quiet h, State.arrival, h, quietArrival]

/-- No source of a list is due exactly when none is raised and enabled (R302). -/
theorem firstDue_none (l : List Source) (b : Nat) :
    firstDue l b = none ↔ ∀ x ∈ l, ¬(x.enabled = true ∧ x.raised = true) := by
  induction l generalizing b with
  | nil => simp [firstDue]
  | cons x l ih =>
    simp only [firstDue, List.forall_mem_cons]
    split
    · next h => simp_all
    · next h => rw [ih]; simp_all

/-- The source that is due is the first of the list that is raised and enabled (R302). -/
theorem firstDue_some {l : List Source} {b n : Nat} (h : firstDue l b = some n) :
    ∃ j, n = b + j ∧ (∃ x, l[j]? = some x ∧ x.enabled = true ∧ x.raised = true) ∧
      ∀ k x, k < j → l[k]? = some x → ¬(x.enabled = true ∧ x.raised = true) := by
  induction l generalizing b with
  | nil => cases h
  | cons x l ih =>
    simp only [firstDue] at h
    split at h
    · next hx =>
      cases h
      exact ⟨0, rfl, ⟨x, rfl, by simpa using hx⟩, fun k _ hk => absurd hk (Nat.not_lt_zero k)⟩
    · next hx =>
      obtain ⟨j, hn, y, hj⟩ := ih h
      refine ⟨j + 1, by omega, y, fun k z hk hz => ?_⟩
      cases k with
      | zero => cases hz; simpa using hx
      | succ k => exact hj k z (by omega) hz

/-- An act of the platform on the controller leaves its registers where they stand. -/
theorem IntCtl.event_register (c : IntCtl) (e : IrqEvent) (x : Word) :
    (c.event e).register x = none ↔ c.register x = none := by
  cases c <;> cases e <;> simp only [IntCtl.event, IntCtl.register]
  all_goals (repeat' split) <;> simp

/-- An acknowledgement leaves the registers of the controller where they stand. -/
theorem IntCtl.acknowledge_register (c : IntCtl) (n : Nat) (x : Word) :
    (c.acknowledge n).register x = none ↔ c.register x = none := by
  cases c <;> simp only [IntCtl.acknowledge, IntCtl.register]
  split <;> (try split) <;> simp

/-- A reset leaves the registers of the controller where they stand. -/
theorem IntCtl.afterReset_register (c : IntCtl) (x : Word) :
    c.afterReset.register x = none ↔ c.register x = none := by
  cases c <;> simp only [IntCtl.afterReset, IntCtl.register]
  split <;> (try split) <;> simp

/-- The events of a boundary leave the registers of the controller where they stand. -/
theorem IntCtl.events_register (l : List IrqEvent) (c : IntCtl) (x : Word) :
    (l.foldl IntCtl.event c).register x = none ↔ c.register x = none := by
  induction l generalizing c with
  | nil => rfl
  | cons e l ih => exact (ih _).trans (IntCtl.event_register c e x)

/-- Whatever arrives, the registers of the controller stand where they stood. -/
theorem State.afterArrival_register (s : State) (x : Word) :
    s.afterArrival.intCtl.register x = none ↔ s.intCtl.register x = none := by
  simp only [State.afterArrival]
  rw [IntCtl.events_register]
  split
  · exact IntCtl.afterReset_register s.intCtl x
  · rfl

/-- All that an interrupt entry does when it is not refused (R308). -/
theorem State.enterInterrupt_next {s t : State} {n : Nat} (h : s.enterInterrupt n = .next t) :
    StoresTwoBytes { s with intCtl := s.intCtl.acknowledge n } t
        (s.sp - 1) (hiByte s.pc) (s.sp - 2) (loByte s.pc) ∧
      ChangesMemoryAndPc { s with ime := false, eiPending := false, sp := s.sp - 2 } t
        (s.intCtl.vector n) := by
  simp only [State.enterInterrupt] at h
  split at h
  · cases h
  · cases h
    have p := State.push16_stores
      { s with ime := false, eiPending := false, intCtl := s.intCtl.acknowledge n } s.pc
    refine ⟨⟨p.other, p.plainA, p.plainB, p.notRamA, p.notRamB, p.notPlain, p.controller, p.history⟩, ?_⟩
    unfold ChangesMemoryAndPc State.jump
    rw [State.push16_frame]

/-- The fetch reads bytes and does nothing else. -/
theorem State.fetch_frame (s : State) :
    s.fetch.2 = { s with history := s.fetch.2.history } := by
  simp only [State.fetch]
  split <;> rfl

/-- The delayed effect of EI: IME becomes 1, and only after an instruction that completed (R306). -/
theorem completeEI_next {p : Bool} {i : Instr} {r : Result} {t : State}
    (h : completeEI p i r = .next t) :
    ∃ u, r = .next u ∧
      (t = u ∨ (t = { u with ime := true } ∧ p = true ∧ takesPendingEI i = true)) := by
  cases r with
  | next u =>
    simp only [completeEI] at h
    split at h
    · next hp =>
      cases h
      exact ⟨_, rfl, .inr ⟨rfl, by simp_all⟩⟩
    · cases h
      exact ⟨_, rfl, .inl rfl⟩
  | fault e => cases h
  | refused e => cases h

/-- What a CPU step in mode Running can be. -/
theorem State.cpuStep_running {s : State} (wake : Bool) (h : s.mode = .running) :
    s.cpuStep wake =
      (match s.interruptDue with
       | some n => s.enterInterrupt n
       | none => s.runInstr) := by
  cases s
  cases h
  rfl

end Sys2Proof.Machine
end

