-- ==== Sys2Proof/Laws/Forms.lean ====
section
/-!
SUPPORT. What the remaining shared forms of the meanings do: one equation or one specification for each
form, and for the forms that store to memory one lemma for each field they keep.
-/

namespace Sys2Proof.Machine

/-- Two states that agree on the fields no store touches, but for the pc. -/
theorem State.eq_of_storesPc {s t : State} {v : Word} (h1 : t.regs = s.regs) (h2 : t.flags = s.flags)
    (h3 : t.sp = s.sp) (h4 : t.pc = v) (h5 : t.ime = s.ime) (h6 : t.eiPending = s.eiPending)
    (h7 : t.mode = s.mode) (h8 : t.bus = s.bus) (h9 : t.arrivals = s.arrivals) :
    ChangesMemoryAndPc s t v := by
  unfold ChangesMemoryAndPc
  cases t
  simp_all

/-- A one-byte rotate writes A, the flags and the pc (R250). -/
theorem rotateA_eq (op : Byte → Bool → Byte × Bool) (s : State) :
    rotateA op s =
      { s with
        regs := { s.regs with a := (op s.regs.a s.flags.c).1 }
        flags := ⟨false, false, false, (op s.regs.a s.flags.c).2⟩
        pc := s.pc + 1 } := rfl

/-- A load of A reads one byte and writes A, the history and the pc (R217 to R219, R227, R229, R231). -/
theorem loadA_eq (a : Word) (n : Nat) (s : State) :
    loadA a n s =
      { s.afterRead a with
        regs := { s.regs with a := s.readByte a }
        pc := s.pc + BitVec.ofNat 16 n } := rfl

/-- RES and SET on a register: it alone is replaced, no flag is written (R173, R175). -/
theorem changeR8_replaced (op : Byte → Byte) (r : R8) (s : State) :
    (ByteTarget.reg r).Replaced s (changeR8 op r s) (op (s.r8 r)) s.flags 2 :=
  ⟨s.setReg8_r8_same r _, fun _ h => s.setReg8_r8_other _ h, rfl⟩

/-- RES and SET on the byte at HL: read once, written once, no flag and no register (R172, R174). -/
theorem changeHL_replaced (op : Byte → Byte) (s : State) :
    ByteTarget.mem.Replaced s (changeHL op s) (op (s.readByte s.hl)) s.flags 2 :=
  ⟨((s.afterRead s.hl).memWrite_storesByte s.hl _).into rfl rfl rfl,
    State.eq_of_storesPc (by simp [changeHL]) (by simp [changeHL]) (by simp [changeHL])
      (by simp [changeHL]) (by simp [changeHL]) (by simp [changeHL]) (by simp [changeHL])
      (by simp [changeHL]) (by simp [changeHL])⟩

/-- A store of one byte by an instruction of n bytes leaves all but memory and the pc alone. -/
theorem ChangesMemoryAndPc.store (s : State) (a : Word) (v : Byte) (n : Nat) :
    ChangesMemoryAndPc s ((s.memWrite a v).advance n) (s.pc + BitVec.ofNat 16 n) :=
  State.eq_of_storesPc (by simp) (by simp) (by simp) (by simp) (by simp) (by simp) (by simp) (by simp)
    (by simp)

/-- The two stores of LD (n16), SP, in the terms of Safety.lean (R55). -/
theorem State.memWrite16_stores (s : State) (a v : Word) :
    StoresTwoBytes s (s.memWrite16 a v) a (loByte v) (a + 1) (hiByte v) :=
  s.memWrite_storesTwoBytes (loByte v) (hiByte v) (Word.ne_add_one a)


/-! ## What the forms that store keep -/

@[simp] theorem State.push16_regs (s : State) (v : Word) :
    (s.push16 v).regs = s.regs := by rw [State.push16_frame]

@[simp] theorem State.push16_flags (s : State) (v : Word) :
    (s.push16 v).flags = s.flags := by rw [State.push16_frame]

@[simp] theorem State.push16_sp (s : State) (v : Word) :
    (s.push16 v).sp = s.sp - 2 := by rw [State.push16_frame]

@[simp] theorem State.push16_pc (s : State) (v : Word) :
    (s.push16 v).pc = s.pc := by rw [State.push16_frame]

@[simp] theorem State.push16_ime (s : State) (v : Word) :
    (s.push16 v).ime = s.ime := by rw [State.push16_frame]

@[simp] theorem State.push16_eiPending (s : State) (v : Word) :
    (s.push16 v).eiPending = s.eiPending := by rw [State.push16_frame]

@[simp] theorem State.push16_mode (s : State) (v : Word) :
    (s.push16 v).mode = s.mode := by rw [State.push16_frame]

@[simp] theorem State.push16_bus (s : State) (v : Word) :
    (s.push16 v).bus = s.bus := by rw [State.push16_frame]

@[simp] theorem State.push16_arrivals (s : State) (v : Word) :
    (s.push16 v).arrivals = s.arrivals := by rw [State.push16_frame]

@[simp] theorem State.memWrite16_regs (s : State) (a v : Word) :
    (s.memWrite16 a v).regs = s.regs := by simp [State.memWrite16]

@[simp] theorem State.memWrite16_flags (s : State) (a v : Word) :
    (s.memWrite16 a v).flags = s.flags := by simp [State.memWrite16]

@[simp] theorem State.memWrite16_sp (s : State) (a v : Word) :
    (s.memWrite16 a v).sp = s.sp := by simp [State.memWrite16]

@[simp] theorem State.memWrite16_pc (s : State) (a v : Word) :
    (s.memWrite16 a v).pc = s.pc := by simp [State.memWrite16]

@[simp] theorem State.memWrite16_ime (s : State) (a v : Word) :
    (s.memWrite16 a v).ime = s.ime := by simp [State.memWrite16]

@[simp] theorem State.memWrite16_eiPending (s : State) (a v : Word) :
    (s.memWrite16 a v).eiPending = s.eiPending := by simp [State.memWrite16]

@[simp] theorem State.memWrite16_mode (s : State) (a v : Word) :
    (s.memWrite16 a v).mode = s.mode := by simp [State.memWrite16]

@[simp] theorem State.memWrite16_bus (s : State) (a v : Word) :
    (s.memWrite16 a v).bus = s.bus := by simp [State.memWrite16]

@[simp] theorem State.memWrite16_arrivals (s : State) (a v : Word) :
    (s.memWrite16 a v).arrivals = s.arrivals := by simp [State.memWrite16]

@[simp] theorem State.callTo_regs (s : State) (back target : Word) :
    (s.callTo back target).regs = s.regs := by simp [State.callTo]

@[simp] theorem State.callTo_flags (s : State) (back target : Word) :
    (s.callTo back target).flags = s.flags := by simp [State.callTo]

@[simp] theorem State.callTo_sp (s : State) (back target : Word) :
    (s.callTo back target).sp = s.sp - 2 := by simp [State.callTo]

@[simp] theorem State.callTo_pc (s : State) (back target : Word) :
    (s.callTo back target).pc = target := by simp [State.callTo]

@[simp] theorem State.callTo_ime (s : State) (back target : Word) :
    (s.callTo back target).ime = s.ime := by simp [State.callTo]

@[simp] theorem State.callTo_eiPending (s : State) (back target : Word) :
    (s.callTo back target).eiPending = s.eiPending := by simp [State.callTo]

@[simp] theorem State.callTo_mode (s : State) (back target : Word) :
    (s.callTo back target).mode = s.mode := by simp [State.callTo]

@[simp] theorem State.callTo_bus (s : State) (back target : Word) :
    (s.callTo back target).bus = s.bus := by simp [State.callTo]

@[simp] theorem State.callTo_arrivals (s : State) (back target : Word) :
    (s.callTo back target).arrivals = s.arrivals := by simp [State.callTo]

@[simp] theorem State.afterPop_regs (s : State) :
    (s.afterPop).regs = s.regs := rfl

@[simp] theorem State.afterPop_flags (s : State) :
    (s.afterPop).flags = s.flags := rfl

@[simp] theorem State.afterPop_sp (s : State) :
    (s.afterPop).sp = s.sp + 2 := rfl

@[simp] theorem State.afterPop_pc (s : State) :
    (s.afterPop).pc = s.pc := rfl

@[simp] theorem State.afterPop_ime (s : State) :
    (s.afterPop).ime = s.ime := rfl

@[simp] theorem State.afterPop_eiPending (s : State) :
    (s.afterPop).eiPending = s.eiPending := rfl

@[simp] theorem State.afterPop_mode (s : State) :
    (s.afterPop).mode = s.mode := rfl

@[simp] theorem State.afterPop_mem (s : State) :
    (s.afterPop).mem = s.mem := rfl

@[simp] theorem State.afterPop_bus (s : State) :
    (s.afterPop).bus = s.bus := rfl

@[simp] theorem State.afterPop_intCtl (s : State) :
    (s.afterPop).intCtl = s.intCtl := rfl

@[simp] theorem State.afterPop_arrivals (s : State) :
    (s.afterPop).arrivals = s.arrivals := rfl

@[simp] theorem State.returnFromStack_regs (s : State) :
    (s.returnFromStack).regs = s.regs := rfl

@[simp] theorem State.returnFromStack_flags (s : State) :
    (s.returnFromStack).flags = s.flags := rfl

@[simp] theorem State.returnFromStack_sp (s : State) :
    (s.returnFromStack).sp = s.sp + 2 := rfl

@[simp] theorem State.returnFromStack_pc (s : State) :
    (s.returnFromStack).pc = s.popValue := rfl

@[simp] theorem State.returnFromStack_ime (s : State) :
    (s.returnFromStack).ime = s.ime := rfl

@[simp] theorem State.returnFromStack_eiPending (s : State) :
    (s.returnFromStack).eiPending = s.eiPending := rfl

@[simp] theorem State.returnFromStack_mode (s : State) :
    (s.returnFromStack).mode = s.mode := rfl

@[simp] theorem State.returnFromStack_mem (s : State) :
    (s.returnFromStack).mem = s.mem := rfl

@[simp] theorem State.returnFromStack_bus (s : State) :
    (s.returnFromStack).bus = s.bus := rfl

@[simp] theorem State.returnFromStack_intCtl (s : State) :
    (s.returnFromStack).intCtl = s.intCtl := rfl

@[simp] theorem State.returnFromStack_arrivals (s : State) :
    (s.returnFromStack).arrivals = s.arrivals := rfl

@[simp] theorem modifyHL_regs (op : Byte → Byte × Flags) (n : Nat) (s : State) :
    (modifyHL op n s).regs = s.regs := by simp [modifyHL]

@[simp] theorem modifyHL_flags (op : Byte → Byte × Flags) (n : Nat) (s : State) :
    (modifyHL op n s).flags = (op (s.readByte s.hl)).2 := by simp [modifyHL]

@[simp] theorem modifyHL_sp (op : Byte → Byte × Flags) (n : Nat) (s : State) :
    (modifyHL op n s).sp = s.sp := by simp [modifyHL]

@[simp] theorem modifyHL_pc (op : Byte → Byte × Flags) (n : Nat) (s : State) :
    (modifyHL op n s).pc = s.pc + BitVec.ofNat 16 n := by simp [modifyHL]

@[simp] theorem modifyHL_ime (op : Byte → Byte × Flags) (n : Nat) (s : State) :
    (modifyHL op n s).ime = s.ime := by simp [modifyHL]

@[simp] theorem modifyHL_eiPending (op : Byte → Byte × Flags) (n : Nat) (s : State) :
    (modifyHL op n s).eiPending = s.eiPending := by simp [modifyHL]

@[simp] theorem modifyHL_mode (op : Byte → Byte × Flags) (n : Nat) (s : State) :
    (modifyHL op n s).mode = s.mode := by simp [modifyHL]

@[simp] theorem modifyHL_bus (op : Byte → Byte × Flags) (n : Nat) (s : State) :
    (modifyHL op n s).bus = s.bus := by simp [modifyHL]

@[simp] theorem modifyHL_arrivals (op : Byte → Byte × Flags) (n : Nat) (s : State) :
    (modifyHL op n s).arrivals = s.arrivals := by simp [modifyHL]

@[simp] theorem changeHL_regs (op : Byte → Byte) (s : State) :
    (changeHL op s).regs = s.regs := by simp [changeHL]

@[simp] theorem changeHL_flags (op : Byte → Byte) (s : State) :
    (changeHL op s).flags = s.flags := by simp [changeHL]

@[simp] theorem changeHL_sp (op : Byte → Byte) (s : State) :
    (changeHL op s).sp = s.sp := by simp [changeHL]

@[simp] theorem changeHL_pc (op : Byte → Byte) (s : State) :
    (changeHL op s).pc = s.pc + 2 := by simp [changeHL]

@[simp] theorem changeHL_ime (op : Byte → Byte) (s : State) :
    (changeHL op s).ime = s.ime := by simp [changeHL]

@[simp] theorem changeHL_eiPending (op : Byte → Byte) (s : State) :
    (changeHL op s).eiPending = s.eiPending := by simp [changeHL]

@[simp] theorem changeHL_mode (op : Byte → Byte) (s : State) :
    (changeHL op s).mode = s.mode := by simp [changeHL]

@[simp] theorem changeHL_bus (op : Byte → Byte) (s : State) :
    (changeHL op s).bus = s.bus := by simp [changeHL]

@[simp] theorem changeHL_arrivals (op : Byte → Byte) (s : State) :
    (changeHL op s).arrivals = s.arrivals := by simp [changeHL]

end Sys2Proof.Machine
end

