-- ==== Sys2Proof/Laws/PerInstr.lean ====
section
/-!
SUPPORT. Statements made for every instruction, one lemma per constructor.
-/

namespace Sys2Proof.Laws.LengthAgrees

/-- The encoding of an instruction has the length that the source's Bytes column gives it (R80, R81). -/
def Statement (i : Instr) : Prop := (encode i).length = instrLength i

theorem adcHL : Statement .adcHL := rfl

theorem adcN8 (n : Byte) : Statement (.adcN8 n) := rfl

theorem adcR8 (r : R8) : Statement (.adcR8 r) := rfl

theorem addHL : Statement .addHL := rfl

theorem addN8 (n : Byte) : Statement (.addN8 n) := rfl

theorem addR8 (r : R8) : Statement (.addR8 r) := rfl

theorem andHL : Statement .andHL := rfl

theorem andN8 (n : Byte) : Statement (.andN8 n) := rfl

theorem andR8 (r : R8) : Statement (.andR8 r) := rfl

theorem ccf : Statement .ccf := rfl

theorem cpHL : Statement .cpHL := rfl

theorem cpN8 (n : Byte) : Statement (.cpN8 n) := rfl

theorem cpR8 (r : R8) : Statement (.cpR8 r) := rfl

theorem cpl : Statement .cpl := rfl

theorem daa : Statement .daa := rfl

theorem decHL : Statement .decHL := rfl

theorem decR8 (r : R8) : Statement (.decR8 r) := rfl

theorem incHL : Statement .incHL := rfl

theorem incR8 (r : R8) : Statement (.incR8 r) := rfl

theorem orHL : Statement .orHL := rfl

theorem orN8 (n : Byte) : Statement (.orN8 n) := rfl

theorem orR8 (r : R8) : Statement (.orR8 r) := rfl

theorem sbcHL : Statement .sbcHL := rfl

theorem sbcN8 (n : Byte) : Statement (.sbcN8 n) := rfl

theorem sbcR8 (r : R8) : Statement (.sbcR8 r) := rfl

theorem scf : Statement .scf := rfl

theorem subHL : Statement .subHL := rfl

theorem subN8 (n : Byte) : Statement (.subN8 n) := rfl

theorem subR8 (r : R8) : Statement (.subR8 r) := rfl

theorem xorHL : Statement .xorHL := rfl

theorem xorN8 (n : Byte) : Statement (.xorN8 n) := rfl

theorem xorR8 (r : R8) : Statement (.xorR8 r) := rfl

theorem addHLR16 (p : R16) : Statement (.addHLR16 p) := rfl

theorem addSPE8 (e : Byte) : Statement (.addSPE8 e) := rfl

theorem decR16 (p : R16) : Statement (.decR16 p) := rfl

theorem incR16 (p : R16) : Statement (.incR16 p) := rfl

theorem bitHL (k : BitVec 3) : Statement (.bitHL k) := rfl

theorem bitR8 (k : BitVec 3) (r : R8) : Statement (.bitR8 k r) := rfl

theorem resHL (k : BitVec 3) : Statement (.resHL k) := rfl

theorem resR8 (k : BitVec 3) (r : R8) : Statement (.resR8 k r) := rfl

theorem setHL (k : BitVec 3) : Statement (.setHL k) := rfl

theorem setR8 (k : BitVec 3) (r : R8) : Statement (.setR8 k r) := rfl

theorem callCC (cc : Cond) (n : Word) : Statement (.callCC cc n) := rfl

theorem call (n : Word) : Statement (.call n) := rfl

theorem jpHL : Statement .jpHL := rfl

theorem jpCC (cc : Cond) (n : Word) : Statement (.jpCC cc n) := rfl

theorem jp (n : Word) : Statement (.jp n) := rfl

theorem jrCC (cc : Cond) (e : Byte) : Statement (.jrCC cc e) := rfl

theorem jr (e : Byte) : Statement (.jr e) := rfl

theorem ret : Statement .ret := rfl

theorem retCC (cc : Cond) : Statement (.retCC cc) := rfl

theorem reti : Statement .reti := rfl

theorem rst (t : BitVec 3) : Statement (.rst t) := rfl

theorem di : Statement .di := rfl

theorem ei : Statement .ei := rfl

theorem halt : Statement .halt := rfl

theorem nop : Statement .nop := rfl

theorem stop : Statement .stop := rfl

theorem ldCA : Statement .ldCA := rfl

theorem ldHLN8 (n : Byte) : Statement (.ldHLN8 n) := rfl

theorem ldHLR8 (r : R8) : Statement (.ldHLR8 r) := rfl

theorem ldN16A (n : Word) : Statement (.ldN16A n) := rfl

theorem ldN16SP (n : Word) : Statement (.ldN16SP n) := rfl

theorem ldR16A (p : R16Ptr) : Statement (.ldR16A p) := rfl

theorem ldAC : Statement .ldAC := rfl

theorem ldAN16 (n : Word) : Statement (.ldAN16 n) := rfl

theorem ldAR16 (p : R16Ptr) : Statement (.ldAR16 p) := rfl

theorem ldHLSPE8 (e : Byte) : Statement (.ldHLSPE8 e) := rfl

theorem ldR16N16 (p : R16) (n : Word) : Statement (.ldR16N16 p n) := rfl

theorem ldR8HL (r : R8) : Statement (.ldR8HL r) := rfl

theorem ldR8N8 (r : R8) (n : Byte) : Statement (.ldR8N8 r n) := rfl

theorem ldR8R8 (r q : R8) : Statement (.ldR8R8 r q) := rfl

theorem ldSPHL : Statement .ldSPHL := rfl

theorem lddHLA : Statement .lddHLA := rfl

theorem lddAHL : Statement .lddAHL := rfl

theorem ldhE8A (e : Byte) : Statement (.ldhE8A e) := rfl

theorem ldhAE8 (e : Byte) : Statement (.ldhAE8 e) := rfl

theorem ldiHLA : Statement .ldiHLA := rfl

theorem ldiAHL : Statement .ldiAHL := rfl

theorem popR16 (p : R16Stk) : Statement (.popR16 p) := rfl

theorem pushR16 (p : R16Stk) : Statement (.pushR16 p) := rfl

theorem rlHL : Statement .rlHL := rfl

theorem rlR8 (r : R8) : Statement (.rlR8 r) := rfl

theorem rla : Statement .rla := rfl

theorem rlcHL : Statement .rlcHL := rfl

theorem rlcR8 (r : R8) : Statement (.rlcR8 r) := rfl

theorem rlca : Statement .rlca := rfl

theorem rrHL : Statement .rrHL := rfl

theorem rrR8 (r : R8) : Statement (.rrR8 r) := rfl

theorem rra : Statement .rra := rfl

theorem rrcHL : Statement .rrcHL := rfl

theorem rrcR8 (r : R8) : Statement (.rrcR8 r) := rfl

theorem rrca : Statement .rrca := rfl

theorem slaHL : Statement .slaHL := rfl

theorem slaR8 (r : R8) : Statement (.slaR8 r) := rfl

theorem sraHL : Statement .sraHL := rfl

theorem sraR8 (r : R8) : Statement (.sraR8 r) := rfl

theorem srlHL : Statement .srlHL := rfl

theorem srlR8 (r : R8) : Statement (.srlR8 r) := rfl

theorem swapHL : Statement .swapHL := rfl

theorem swapR8 (r : R8) : Statement (.swapR8 r) := rfl

theorem prefixCB : Statement .prefixCB := rfl

theorem unassigned (b : Byte) : Statement (.unassigned b) := rfl

end Sys2Proof.Laws.LengthAgrees
end

