-- ==== Sys2Proof/Machine/Spelling.lean ====
section
/-!
DEFINITION. How the source spells an instruction (spec/30_encoding.md R96). Immediates are written in
hexadecimal with a trailing h, two digits for a byte and four for a word; a bit number is decimal.
-/

namespace Sys2Proof.Machine

/-- One hexadecimal digit. -/
def hexDigit (n : Nat) : String :=
  match n with
  | 0 => "0"
  | 1 => "1"
  | 2 => "2"
  | 3 => "3"
  | 4 => "4"
  | 5 => "5"
  | 6 => "6"
  | 7 => "7"
  | 8 => "8"
  | 9 => "9"
  | 10 => "A"
  | 11 => "B"
  | 12 => "C"
  | 13 => "D"
  | 14 => "E"
  | _ => "F"

/-- The two digits of a byte. -/
def hexPair (v : Byte) : String := hexDigit (v.toNat / 16) ++ hexDigit (v.toNat % 16)

/-- An immediate byte. -/
def spellByte (v : Byte) : String := hexPair v ++ "h"

/-- An immediate word. -/
def spellWord (v : Word) : String := hexPair (hiByte v) ++ hexPair (loByte v) ++ "h"

/-- A bit number, 0 to 7. -/
def spellBit (k : BitVec 3) : String := hexDigit k.toNat

/-- An 8-bit register. -/
def spellR8 (r : R8) : String :=
  match r with
  | .a => "A"
  | .b => "B"
  | .c => "C"
  | .d => "D"
  | .e => "E"
  | .h => "H"
  | .l => "L"

/-- A 16-bit register of the table `r16`. -/
def spellR16 (p : R16) : String :=
  match p with
  | .bc => "BC"
  | .de => "DE"
  | .hl => "HL"
  | .sp => "SP"

/-- A 16-bit register of the table `r16stk`. -/
def spellR16Stk (p : R16Stk) : String :=
  match p with
  | .bc => "BC"
  | .de => "DE"
  | .hl => "HL"
  | .af => "AF"

/-- A pointer. -/
def spellR16Ptr (p : R16Ptr) : String :=
  match p with
  | .bc => "(BC)"
  | .de => "(DE)"

/-- A condition. -/
def spellCond (cc : Cond) : String :=
  match cc with
  | .nz => "NZ"
  | .z => "Z"
  | .nc => "NC"
  | .c => "C"

/-- The statement in the source's spelling. The byte CBh alone and an unassigned byte have none there;
they are written as the spec's table names them. -/
def spelling (i : Instr) : String :=
  match i with
  | .adcHL => "ADC A, (HL)"
  | .adcN8 n => "ADC A, " ++ spellByte n
  | .adcR8 r => "ADC A, " ++ spellR8 r
  | .addHL => "ADD A, (HL)"
  | .addN8 n => "ADD A, " ++ spellByte n
  | .addR8 r => "ADD A, " ++ spellR8 r
  | .andHL => "AND (HL)"
  | .andN8 n => "AND " ++ spellByte n
  | .andR8 r => "AND " ++ spellR8 r
  | .ccf => "CCF"
  | .cpHL => "CP (HL)"
  | .cpN8 n => "CP " ++ spellByte n
  | .cpR8 r => "CP " ++ spellR8 r
  | .cpl => "CPL"
  | .daa => "DAA"
  | .decHL => "DEC (HL)"
  | .decR8 r => "DEC " ++ spellR8 r
  | .incHL => "INC (HL)"
  | .incR8 r => "INC " ++ spellR8 r
  | .orHL => "OR (HL)"
  | .orN8 n => "OR " ++ spellByte n
  | .orR8 r => "OR " ++ spellR8 r
  | .sbcHL => "SBC A, (HL)"
  | .sbcN8 n => "SBC A, " ++ spellByte n
  | .sbcR8 r => "SBC A, " ++ spellR8 r
  | .scf => "SCF"
  | .subHL => "SUB (HL)"
  | .subN8 n => "SUB " ++ spellByte n
  | .subR8 r => "SUB " ++ spellR8 r
  | .xorHL => "XOR (HL)"
  | .xorN8 n => "XOR " ++ spellByte n
  | .xorR8 r => "XOR " ++ spellR8 r
  | .addHLR16 p => "ADD HL, " ++ spellR16 p
  | .addSPE8 e => "ADD SP, " ++ spellByte e
  | .decR16 p => "DEC " ++ spellR16 p
  | .incR16 p => "INC " ++ spellR16 p
  | .bitHL k => "BIT " ++ spellBit k ++ ", (HL)"
  | .bitR8 k r => "BIT " ++ spellBit k ++ ", " ++ spellR8 r
  | .resHL k => "RES " ++ spellBit k ++ ", (HL)"
  | .resR8 k r => "RES " ++ spellBit k ++ ", " ++ spellR8 r
  | .setHL k => "SET " ++ spellBit k ++ ", (HL)"
  | .setR8 k r => "SET " ++ spellBit k ++ ", " ++ spellR8 r
  | .callCC cc n => "CALL " ++ spellCond cc ++ ", " ++ spellWord n
  | .call n => "CALL " ++ spellWord n
  | .jpHL => "JP (HL)"
  | .jpCC cc n => "JP " ++ spellCond cc ++ ", " ++ spellWord n
  | .jp n => "JP " ++ spellWord n
  | .jrCC cc e => "JR " ++ spellCond cc ++ ", " ++ spellByte e
  | .jr e => "JR " ++ spellByte e
  | .ret => "RET"
  | .retCC cc => "RET " ++ spellCond cc
  | .reti => "RETI"
  | .rst t => "RST " ++ spellByte (BitVec.ofNat 8 (8 * t.toNat))
  | .di => "DI"
  | .ei => "EI"
  | .halt => "HALT"
  | .nop => "NOP"
  | .stop => "STOP"
  | .ldCA => "LD (C), A"
  | .ldHLN8 n => "LD (HL), " ++ spellByte n
  | .ldHLR8 r => "LD (HL), " ++ spellR8 r
  | .ldN16A n => "LD (" ++ spellWord n ++ "), A"
  | .ldN16SP n => "LD (" ++ spellWord n ++ "), SP"
  | .ldR16A p => "LD " ++ spellR16Ptr p ++ ", A"
  | .ldAC => "LD A, (C)"
  | .ldAN16 n => "LD A, (" ++ spellWord n ++ ")"
  | .ldAR16 p => "LD A, " ++ spellR16Ptr p
  | .ldHLSPE8 e => "LD HL, SP + " ++ spellByte e
  | .ldR16N16 p n => "LD " ++ spellR16 p ++ ", " ++ spellWord n
  | .ldR8HL r => "LD " ++ spellR8 r ++ ", (HL)"
  | .ldR8N8 r n => "LD " ++ spellR8 r ++ ", " ++ spellByte n
  | .ldR8R8 r q => "LD " ++ spellR8 r ++ ", " ++ spellR8 q
  | .ldSPHL => "LD SP, HL"
  | .lddHLA => "LDD (HL), A"
  | .lddAHL => "LDD A, (HL)"
  | .ldhE8A e => "LDH (" ++ spellByte e ++ "), A"
  | .ldhAE8 e => "LDH A, (" ++ spellByte e ++ ")"
  | .ldiHLA => "LDI (HL), A"
  | .ldiAHL => "LDI A, (HL)"
  | .popR16 p => "POP " ++ spellR16Stk p
  | .pushR16 p => "PUSH " ++ spellR16Stk p
  | .rlHL => "RL (HL)"
  | .rlR8 r => "RL " ++ spellR8 r
  | .rla => "RLA"
  | .rlcHL => "RLC (HL)"
  | .rlcR8 r => "RLC " ++ spellR8 r
  | .rlca => "RLCA"
  | .rrHL => "RR (HL)"
  | .rrR8 r => "RR " ++ spellR8 r
  | .rra => "RRA"
  | .rrcHL => "RRC (HL)"
  | .rrcR8 r => "RRC " ++ spellR8 r
  | .rrca => "RRCA"
  | .slaHL => "SLA (HL)"
  | .slaR8 r => "SLA " ++ spellR8 r
  | .sraHL => "SRA (HL)"
  | .sraR8 r => "SRA " ++ spellR8 r
  | .srlHL => "SRL (HL)"
  | .srlR8 r => "SRL " ++ spellR8 r
  | .swapHL => "SWAP (HL)"
  | .swapR8 r => "SWAP " ++ spellR8 r
  | .prefixCB => "(prefix CBh)"
  | .unassigned b => "(unassigned " ++ spellByte b ++ ")"

end Sys2Proof.Machine
end

