-- ==== Sys2Proof/Machine/Timing.lean ====
section
/-!
DEFINITION. An observer of time, outside the state (spec/70_reset_and_hazards.md R350 to R353). No
meaning reads it: "no rule of the model reads them and no architectural state depends on them".
-/

namespace Sys2Proof.Machine

/-- The M/C cell of a form (R352). In the four conditional rows the first number is the count when the
condition is true, judged by the flags before the instruction (R353). The byte CBh alone and an
unassigned byte have no cell: 0. -/
def machineCycles (i : Instr) (f : Flags) : Nat :=
  match i with
  | .adcHL | .addHL | .andHL | .cpHL | .orHL | .sbcHL | .subHL | .xorHL => 2
  | .adcN8 _ | .addN8 _ | .andN8 _ | .cpN8 _ | .orN8 _ | .sbcN8 _ | .subN8 _ | .xorN8 _ => 2
  | .adcR8 _ | .addR8 _ | .andR8 _ | .cpR8 _ | .orR8 _ | .sbcR8 _ | .subR8 _ | .xorR8 _ => 1
  | .ccf | .cpl | .daa | .scf | .decR8 _ | .incR8 _ => 1
  | .decHL | .incHL => 3
  | .addHLR16 _ | .decR16 _ | .incR16 _ => 2
  | .addSPE8 _ => 4
  | .bitHL _ => 3
  | .resHL _ | .setHL _ => 4
  | .bitR8 _ _ | .resR8 _ _ | .setR8 _ _ => 2
  | .callCC cc _ => if condHolds cc f then 6 else 3
  | .call _ => 6
  | .jpHL => 1
  | .jpCC cc _ => if condHolds cc f then 4 else 3
  | .jp _ => 4
  | .jrCC cc _ => if condHolds cc f then 3 else 2
  | .jr _ => 3
  | .ret | .reti | .rst _ => 4
  | .retCC cc => if condHolds cc f then 5 else 2
  | .di | .ei | .halt | .nop | .stop => 1
  | .ldCA | .ldAC | .ldHLR8 _ | .ldR8HL _ | .ldR16A _ | .ldAR16 _ | .ldSPHL | .ldR8N8 _ _ => 2
  | .ldHLN8 _ | .ldHLSPE8 _ | .ldR16N16 _ _ => 3
  | .ldN16A _ | .ldAN16 _ => 4
  | .ldN16SP _ => 5
  | .ldR8R8 _ _ => 1
  | .lddHLA | .lddAHL | .ldiHLA | .ldiAHL => 2
  | .ldhE8A _ | .ldhAE8 _ => 3
  | .popR16 _ => 3
  | .pushR16 _ => 4
  | .rlHL | .rlcHL | .rrHL | .rrcHL | .slaHL | .sraHL | .srlHL | .swapHL => 4
  | .rlR8 _ | .rlcR8 _ | .rrR8 _ | .rrcR8 _ | .slaR8 _ | .sraR8 _ | .srlR8 _ | .swapR8 _ => 2
  | .rla | .rlca | .rra | .rrca => 1
  | .prefixCB | .unassigned _ => 0

/-- R351: one machine cycle is 4 clock cycles. -/
def clockCycles (i : Instr) (f : Flags) : Nat := 4 * machineCycles i f

/-- The machine cycles of interrupt entry (R308, R350). -/
def entryCycles : Nat := 5

/-- The machine cycles the next step takes; `none` where the time is unbounded or there is no step (R350:
in Halted and Stopped, and in Locked). -/
def State.stepCycles (s : State) : Option Nat :=
  let s1 := s.afterArrival
  match s1.mode with
  | .running =>
    match s1.interruptDue with
    | some _ => some entryCycles
    | none => some (machineCycles (State.fetch { s1 with eiPending := false }).1 s1.flags)
  | .halted => none
  | .stopped => none
  | .locked _ => none

end Sys2Proof.Machine
end

