-- ==== Sys2Proof/Tests/Slice0.lean ====
section
/-!
SUPPORT. Tests: the smoke test of WellFormed, one word for every constructor, one step for most
instructions, and for every statement with hypotheses a state and operands that meet them.
-/

namespace Sys2Proof.Tests

open Sys2Proof Sys2Proof.Machine

/-! ## Ill-formed terms -/

theorem test_prefixCB_alone_is_illFormed : Instr.prefixCB.wellFormed = false := by decide

theorem test_nop_byte_is_not_unassigned : (Instr.unassigned 0x00#8).wellFormed = false := by decide

theorem test_cb_byte_is_not_unassigned : (Instr.unassigned 0xCB#8).wellFormed = false := by decide

theorem test_d3_byte_is_unassigned : (Instr.unassigned 0xD3#8).wellFormed = true := by decide

/-! ## Decoding: one word for every constructor, written out from the Encoding line of its rule
(spec/30_encoding.md R82 to R93). Each line is the bytes, in memory order, and the instruction. -/

/-- The decoder reads the instruction from the bytes and nothing is left. -/
def readsAs (bytes : List Byte) (i : Instr) : Bool := decide (decode bytes = .ok (i, []))

theorem test_decode_alu8 :
    readsAs [0b10001110#8] .adcHL &&
    readsAs [0b11001110#8, 0x9A#8] (.adcN8 0x9A) &&
    readsAs [0b10001100#8] (.adcR8 .h) &&
    readsAs [0b10000110#8] .addHL &&
    readsAs [0b11000110#8, 0x9A#8] (.addN8 0x9A) &&
    readsAs [0b10000010#8] (.addR8 .d) &&
    readsAs [0b10100110#8] .andHL &&
    readsAs [0b11100110#8, 0x9A#8] (.andN8 0x9A) &&
    readsAs [0b10100111#8] (.andR8 .a) &&
    readsAs [0b00111111#8] .ccf &&
    readsAs [0b10111110#8] .cpHL &&
    readsAs [0b11111110#8, 0x9A#8] (.cpN8 0x9A) &&
    readsAs [0b10111011#8] (.cpR8 .e) &&
    readsAs [0b00101111#8] .cpl &&
    readsAs [0b00100111#8] .daa &&
    readsAs [0b00110101#8] .decHL &&
    readsAs [0b00101101#8] (.decR8 .l) &&
    readsAs [0b00110100#8] .incHL &&
    readsAs [0b00000100#8] (.incR8 .b) &&
    readsAs [0b10110110#8] .orHL &&
    readsAs [0b11110110#8, 0x9A#8] (.orN8 0x9A) &&
    readsAs [0b10110001#8] (.orR8 .c) &&
    readsAs [0b10011110#8] .sbcHL &&
    readsAs [0b11011110#8, 0x9A#8] (.sbcN8 0x9A) &&
    readsAs [0b10011100#8] (.sbcR8 .h) &&
    readsAs [0b00110111#8] .scf &&
    readsAs [0b10010110#8] .subHL &&
    readsAs [0b11010110#8, 0x9A#8] (.subN8 0x9A) &&
    readsAs [0b10010010#8] (.subR8 .d) &&
    readsAs [0b10101110#8] .xorHL &&
    readsAs [0b11101110#8, 0x9A#8] (.xorN8 0x9A) &&
    readsAs [0b10101111#8] (.xorR8 .a) := by decide

theorem test_decode_alu16 :
    readsAs [0b00111001#8] (.addHLR16 .sp) &&
    readsAs [0b11101000#8, 0x9A#8] (.addSPE8 0x9A) &&
    readsAs [0b00001011#8] (.decR16 .bc) &&
    readsAs [0b00010011#8] (.incR16 .de) := by decide

theorem test_decode_bit :
    readsAs [0b11001011#8, 0b01110110#8] (.bitHL 6) &&
    readsAs [0b11001011#8, 0b01011010#8] (.bitR8 3 .d) &&
    readsAs [0b11001011#8, 0b10100110#8] (.resHL 4) &&
    readsAs [0b11001011#8, 0b10101101#8] (.resR8 5 .l) &&
    readsAs [0b11001011#8, 0b11110110#8] (.setHL 6) &&
    readsAs [0b11001011#8, 0b11011100#8] (.setR8 3 .h) := by decide

theorem test_decode_control :
    readsAs [0b11011100#8, 0x34#8, 0x12#8] (.callCC .c 0x1234) &&
    readsAs [0b11001101#8, 0x34#8, 0x12#8] (.call 0x1234) &&
    readsAs [0b11101001#8] .jpHL &&
    readsAs [0b11000010#8, 0x34#8, 0x12#8] (.jpCC .nz 0x1234) &&
    readsAs [0b11000011#8, 0x34#8, 0x12#8] (.jp 0x1234) &&
    readsAs [0b00101000#8, 0x9A#8] (.jrCC .z 0x9A) &&
    readsAs [0b00011000#8, 0x9A#8] (.jr 0x9A) &&
    readsAs [0b11001001#8] .ret &&
    readsAs [0b11010000#8] (.retCC .nc) &&
    readsAs [0b11011001#8] .reti &&
    readsAs [0b11011111#8] (.rst 3) := by decide

theorem test_decode_system :
    readsAs [0b11110011#8] .di &&
    readsAs [0b11111011#8] .ei &&
    readsAs [0b01110110#8] .halt &&
    readsAs [0b00000000#8] .nop &&
    readsAs [0b00010000#8, 0x00#8] .stop := by decide

theorem test_decode_load :
    readsAs [0b11100010#8] .ldCA &&
    readsAs [0b00110110#8, 0x9A#8] (.ldHLN8 0x9A) &&
    readsAs [0b01110001#8] (.ldHLR8 .c) &&
    readsAs [0b11101010#8, 0x34#8, 0x12#8] (.ldN16A 0x1234) &&
    readsAs [0b00001000#8, 0x34#8, 0x12#8] (.ldN16SP 0x1234) &&
    readsAs [0b00010010#8] (.ldR16A .de) &&
    readsAs [0b11110010#8] .ldAC &&
    readsAs [0b11111010#8, 0x34#8, 0x12#8] (.ldAN16 0x1234) &&
    readsAs [0b00001010#8] (.ldAR16 .bc) &&
    readsAs [0b11111000#8, 0x9A#8] (.ldHLSPE8 0x9A) &&
    readsAs [0b00110001#8, 0x34#8, 0x12#8] (.ldR16N16 .sp 0x1234) &&
    readsAs [0b01011110#8] (.ldR8HL .e) &&
    readsAs [0b00101110#8, 0x9A#8] (.ldR8N8 .l 0x9A) &&
    readsAs [0b01000001#8] (.ldR8R8 .b .c) &&
    readsAs [0b11111001#8] .ldSPHL &&
    readsAs [0b00110010#8] .lddHLA &&
    readsAs [0b00111010#8] .lddAHL &&
    readsAs [0b11100000#8, 0x9A#8] (.ldhE8A 0x9A) &&
    readsAs [0b11110000#8, 0x9A#8] (.ldhAE8 0x9A) &&
    readsAs [0b00100010#8] .ldiHLA &&
    readsAs [0b00101010#8] .ldiAHL &&
    readsAs [0b11000001#8] (.popR16 .bc) &&
    readsAs [0b11010101#8] (.pushR16 .de) := by decide

theorem test_decode_rotate :
    readsAs [0b11001011#8, 0b00010110#8] .rlHL &&
    readsAs [0b11001011#8, 0b00010111#8] (.rlR8 .a) &&
    readsAs [0b00010111#8] .rla &&
    readsAs [0b11001011#8, 0b00000110#8] .rlcHL &&
    readsAs [0b11001011#8, 0b00000011#8] (.rlcR8 .e) &&
    readsAs [0b00000111#8] .rlca &&
    readsAs [0b11001011#8, 0b00011110#8] .rrHL &&
    readsAs [0b11001011#8, 0b00011101#8] (.rrR8 .l) &&
    readsAs [0b00011111#8] .rra &&
    readsAs [0b11001011#8, 0b00001110#8] .rrcHL &&
    readsAs [0b11001011#8, 0b00001000#8] (.rrcR8 .b) &&
    readsAs [0b00001111#8] .rrca &&
    readsAs [0b11001011#8, 0b00100110#8] .slaHL &&
    readsAs [0b11001011#8, 0b00100001#8] (.slaR8 .c) &&
    readsAs [0b11001011#8, 0b00101110#8] .sraHL &&
    readsAs [0b11001011#8, 0b00101100#8] (.sraR8 .h) &&
    readsAs [0b11001011#8, 0b00111110#8] .srlHL &&
    readsAs [0b11001011#8, 0b00111010#8] (.srlR8 .d) &&
    readsAs [0b11001011#8, 0b00110110#8] .swapHL &&
    readsAs [0b11001011#8, 0b00110111#8] (.swapR8 .a) := by decide

theorem test_decode_unassigned :
    readsAs [0b11010011#8] (.unassigned 0b11010011) &&
    readsAs [0b11011011#8] (.unassigned 0b11011011) &&
    readsAs [0b11011101#8] (.unassigned 0b11011101) &&
    readsAs [0b11100011#8] (.unassigned 0b11100011) &&
    readsAs [0b11100100#8] (.unassigned 0b11100100) &&
    readsAs [0b11101011#8] (.unassigned 0b11101011) &&
    readsAs [0b11101100#8] (.unassigned 0b11101100) &&
    readsAs [0b11101101#8] (.unassigned 0b11101101) &&
    readsAs [0b11110100#8] (.unassigned 0b11110100) &&
    readsAs [0b11111100#8] (.unassigned 0b11111100) &&
    readsAs [0b11111101#8] (.unassigned 0b11111101) := by decide

/-- STOP's second byte is skipped whatever it is (R204). -/
theorem test_decode_stop_any_second_byte : readsAs [0x10#8, 0xFF#8] .stop := by decide

/-- The byte CBh with the second byte: RLC B is CB 00 (R92). -/
theorem test_decode_cb_needs_second_byte :
    decode [0xCB#8] = .error (.truncated 0xCB#8) := by decide

/-! ## One step, from the worked examples of spec/95_test_vectors.md section 2 -/

/-- A running CPU with the bytes of an instruction at 5000h, SP at D000h and every register zero. -/
def cpu (code : List Byte) : State :=
  { State.reset with
    pc := 0x5000#16
    sp := 0xD000#16
    mem := code.zipIdx.foldl (fun m x => m.set (0x5000 + x.2) x.1) [] }

/-- What one step leaves, seen through a projection; `none` where the step does not go on. -/
def after (s : State) {α : Type} (f : State → α) : Option α :=
  match step s with
  | .next t => some (f t)
  | .fault _ => none
  | .refused _ => none

theorem test_step_adcR8 :
    after { cpu [0x88#8] with
        regs := { zeroRegs with a := 0xFF#8, b := 0xFF#8 }
        flags := ⟨false, false, false, true⟩ }
      (fun t => (t.regs.a, t.flags.z, t.flags.n, t.flags.h, t.flags.c)) =
    some (0xFF#8, false, false, true, true) := by decide

theorem test_step_addN8 :
    after { cpu [0xC6#8, 0xFF#8] with
        regs := { zeroRegs with a := 0x01#8 } }
      (fun t => (t.regs.a, t.flags.z, t.flags.n, t.flags.h, t.flags.c)) =
    some (0x00#8, true, false, true, true) := by decide

theorem test_step_addR8 :
    after { cpu [0x87#8] with
        regs := { zeroRegs with a := 0x80#8 } }
      (fun t => (t.regs.a, t.flags.z, t.flags.n, t.flags.h, t.flags.c)) =
    some (0x00#8, true, false, false, true) := by decide

theorem test_step_addHLR16 :
    after { cpu [0x09#8] with
        regs := { zeroRegs with b := 0x00#8, c := 0x01#8, h := 0x00#8, l := 0xFF#8 } }
      (fun t => (t.hl, t.flags.z, t.flags.n, t.flags.h, t.flags.c)) =
    some (0x0100#16, false, false, false, false) := by decide

theorem test_step_addSPE8 :
    after { cpu [0xE8#8, 0x08#8] with
        sp := 0x00F8#16 }
      (fun t => (t.sp, t.flags.z, t.flags.n, t.flags.h, t.flags.c)) =
    some (0x0100#16, false, false, true, true) := by decide

theorem test_step_andR8 :
    after { cpu [0xA0#8] with
        regs := { zeroRegs with a := 0x5A#8, b := 0xA5#8 }
        flags := ⟨false, false, false, true⟩ }
      (fun t => (t.regs.a, t.flags.z, t.flags.n, t.flags.h, t.flags.c)) =
    some (0x00#8, true, false, true, false) := by decide

theorem test_step_bitHL :
    after { ((cpu [0xCB#8, 0x46#8]).memWrite 0xC000#16 0xFE#8) with
        regs := { zeroRegs with h := 0xC0#8, l := 0x00#8 } }
      (fun t => (t.byteAt 0xC000#16, t.flags.z, t.flags.n, t.flags.h, t.flags.c)) =
    some (0xFE#8, true, false, true, false) := by decide

theorem test_step_bitR8 :
    after { cpu [0xCB#8, 0x65#8] with
        regs := { zeroRegs with l := 0xEF#8 } }
      (fun t => (t.regs.l, t.flags.z, t.flags.n, t.flags.h, t.flags.c)) =
    some (0xEF#8, true, false, true, false) := by decide

theorem test_step_callCC :
    after { ((((cpu []).memWrite 0x8000#16 0xC4#8).memWrite 0x8001#16 0x34#8).memWrite 0x8002#16 0x12#8) with
        pc := 0x8000#16
        flags := ⟨true, false, false, false⟩
        sp := 0xFFFE#16 }
      (fun t => (t.pc, t.sp)) =
    some (0x8003#16, 0xFFFE#16) := by decide

theorem test_step_call :
    after { ((((cpu []).memWrite 0x0100#16 0xCD#8).memWrite 0x0101#16 0x00#8).memWrite 0x0102#16 0x20#8) with
        pc := 0x0100#16
        sp := 0x0001#16 }
      (fun t => (t.pc, t.sp, t.byteAt 0x0000#16, t.byteAt 0xFFFF#16)) =
    some (0x2000#16, 0xFFFF#16, 0x01#8, 0x03#8) := by decide

theorem test_step_ccf :
    after (cpu [0x3F#8])
      (fun t => (t.flags.z, t.flags.n, t.flags.h, t.flags.c)) =
    some (false, false, false, true) := by decide

theorem test_step_cpR8 :
    after { cpu [0xB8#8] with
        regs := { zeroRegs with a := 0x3C#8, b := 0x40#8 } }
      (fun t => (t.regs.a, t.flags.z, t.flags.n, t.flags.h, t.flags.c)) =
    some (0x3C#8, false, true, false, true) := by decide

theorem test_step_cpl :
    after { cpu [0x2F#8] with
        regs := { zeroRegs with a := 0x35#8 }
        flags := ⟨true, false, false, true⟩ }
      (fun t => (t.regs.a, t.flags.z, t.flags.n, t.flags.h, t.flags.c)) =
    some (0xCA#8, true, true, true, true) := by decide

theorem test_step_daa :
    after { cpu [0x27#8] with
        regs := { zeroRegs with a := 0x9A#8 }
        flags := ⟨false, true, false, false⟩ }
      (fun t => (t.regs.a, t.flags.z, t.flags.n, t.flags.h, t.flags.c)) =
    some (0x9A#8, false, true, false, false) := by decide

theorem test_step_decR16 :
    after { cpu [0x2B#8] with
        regs := { zeroRegs with h := 0x00#8, l := 0x00#8 }
        flags := ⟨true, true, true, true⟩ }
      (fun t => (t.hl, t.flags.z, t.flags.n, t.flags.h, t.flags.c)) =
    some (0xFFFF#16, true, true, true, true) := by decide

theorem test_step_decR8 :
    after { cpu [0x05#8] with
        regs := { zeroRegs with b := 0x80#8 } }
      (fun t => (t.regs.b, t.flags.z, t.flags.n, t.flags.h, t.flags.c)) =
    some (0x7F#8, false, true, true, false) := by decide

theorem test_step_incR16 :
    after { cpu [0x03#8] with
        regs := { zeroRegs with b := 0xFF#8, c := 0xFF#8 } }
      (fun t => (t.bc, t.flags.z, t.flags.n, t.flags.h, t.flags.c)) =
    some (0x0000#16, false, false, false, false) := by decide

theorem test_step_incR8 :
    after { cpu [0x04#8] with
        regs := { zeroRegs with b := 0x7F#8 }
        flags := ⟨false, true, false, false⟩ }
      (fun t => (t.regs.b, t.flags.z, t.flags.n, t.flags.h, t.flags.c)) =
    some (0x80#8, false, false, true, false) := by decide

theorem test_step_jpHL :
    after { ((cpu []).memWrite 0x0100#16 0xE9#8) with
        pc := 0x0100#16
        regs := { zeroRegs with h := 0xC1#8, l := 0x23#8 } }
      (fun t => t.pc) =
    some 0xC123#16 := by decide

theorem test_step_jpCC :
    after { ((((cpu []).memWrite 0x0100#16 0xDA#8).memWrite 0x0101#16 0x00#8).memWrite 0x0102#16 0x80#8) with
        pc := 0x0100#16
        flags := ⟨false, false, false, true⟩ }
      (fun t => t.pc) =
    some 0x8000#16 := by decide

theorem test_step_jp :
    after { ((((cpu []).memWrite 0x0100#16 0xC3#8).memWrite 0x0101#16 0x50#8).memWrite 0x0102#16 0x01#8) with
        pc := 0x0100#16 }
      (fun t => t.pc) =
    some 0x0150#16 := by decide

theorem test_step_jrCC :
    after { (((cpu []).memWrite 0x0200#16 0x38#8).memWrite 0x0201#16 0x10#8) with
        pc := 0x0200#16
        flags := ⟨false, false, false, true⟩ }
      (fun t => t.pc) =
    some 0x0212#16 := by decide

theorem test_step_jr :
    after { (((cpu []).memWrite 0x0000#16 0x18#8).memWrite 0x0001#16 0xFD#8) with
        pc := 0x0000#16 }
      (fun t => t.pc) =
    some 0xFFFF#16 := by decide

theorem test_step_ldCA :
    after { cpu [0xE2#8] with
        regs := { zeroRegs with a := 0x91#8, c := 0x40#8 } }
      (fun t => t.byteAt 0xFF40#16) =
    some 0x91#8 := by decide

theorem test_step_ldHLN8 :
    after { cpu [0x36#8, 0x5A#8] with
        regs := { zeroRegs with h := 0xC1#8, l := 0x00#8 } }
      (fun t => t.byteAt 0xC100#16) =
    some 0x5A#8 := by decide

theorem test_step_ldHLR8 :
    after { cpu [0x75#8] with
        regs := { zeroRegs with h := 0xC0#8, l := 0x5C#8 } }
      (fun t => t.byteAt 0xC05C#16) =
    some 0x5C#8 := by decide

theorem test_step_ldN16A :
    after { cpu [0xEA#8, 0x00#8, 0xC0#8] with
        regs := { zeroRegs with a := 0x77#8 } }
      (fun t => t.byteAt 0xC000#16) =
    some 0x77#8 := by decide

theorem test_step_ldN16SP :
    after { cpu [0x08#8, 0xFF#8, 0xFF#8] with
        sp := 0x1234#16 }
      (fun t => (t.byteAt 0xFFFF#16, t.byteAt 0x0000#16)) =
    some (0x34#8, 0x12#8) := by decide

theorem test_step_ldR16A :
    after { cpu [0x02#8] with
        regs := { zeroRegs with b := 0xC2#8, c := 0x34#8, a := 0x42#8 } }
      (fun t => t.byteAt 0xC234#16) =
    some 0x42#8 := by decide

theorem test_step_ldAC :
    after { ((cpu [0xF2#8]).memWrite 0xFFFF#16 0x1F#8) with
        regs := { zeroRegs with c := 0xFF#8 } }
      (fun t => t.regs.a) =
    some 0x1F#8 := by decide

theorem test_step_ldAN16 :
    after (((cpu [0xFA#8, 0x34#8, 0x12#8]).memWrite 0x1234#16 0x9C#8))
      (fun t => t.regs.a) =
    some 0x9C#8 := by decide

theorem test_step_ldAR16 :
    after { ((cpu [0x1A#8]).memWrite 0xD000#16 0x2F#8) with
        regs := { zeroRegs with d := 0xD0#8, e := 0x00#8 } }
      (fun t => t.regs.a) =
    some 0x2F#8 := by decide

theorem test_step_ldHLSPE8 :
    after { cpu [0xF8#8, 0x02#8] with
        flags := ⟨true, true, true, true⟩
        sp := 0xFFF8#16 }
      (fun t => (t.hl, t.sp, t.flags.z, t.flags.n, t.flags.h, t.flags.c)) =
    some (0xFFFA#16, 0xFFF8#16, false, false, false, false) := by decide

theorem test_step_ldR16N16 :
    after (cpu [0x31#8, 0xFE#8, 0xFF#8])
      (fun t => t.sp) =
    some 0xFFFE#16 := by decide

theorem test_step_ldR8HL :
    after { ((cpu [0x66#8]).memWrite 0xC05C#16 0x5C#8) with
        regs := { zeroRegs with h := 0xC0#8, l := 0x5C#8 } }
      (fun t => t.hl) =
    some 0x5C5C#16 := by decide

theorem test_step_ldR8N8 :
    after { cpu [0x06#8, 0x24#8] with
        flags := ⟨true, true, true, true⟩ }
      (fun t => (t.regs.b, t.f)) =
    some (0x24#8, 0xF0#8) := by decide

theorem test_step_ldR8R8 :
    after { cpu [0x78#8] with
        regs := { zeroRegs with b := 0x3C#8 } }
      (fun t => (t.regs.a, t.regs.b)) =
    some (0x3C#8, 0x3C#8) := by decide

theorem test_step_ldSPHL :
    after { cpu [0xF9#8] with
        regs := { zeroRegs with h := 0xDF#8, l := 0xF0#8 } }
      (fun t => t.sp) =
    some 0xDFF0#16 := by decide

theorem test_step_lddHLA :
    after { cpu [0x32#8] with
        regs := { zeroRegs with h := 0x00#8, l := 0x00#8, a := 0x05#8 } }
      (fun t => (t.hl, t.byteAt 0x0000#16)) =
    some (0xFFFF#16, 0x05#8) := by decide

theorem test_step_lddAHL :
    after { ((cpu [0x3A#8]).memWrite 0x8A5C#16 0x3C#8) with
        regs := { zeroRegs with h := 0x8A#8, l := 0x5C#8 } }
      (fun t => (t.regs.a, t.hl)) =
    some (0x3C#8, 0x8A5B#16) := by decide

theorem test_step_ldhE8A :
    after { cpu [0xE0#8, 0x80#8] with
        regs := { zeroRegs with a := 0x3C#8 } }
      (fun t => t.byteAt 0xFF80#16) =
    some 0x3C#8 := by decide

theorem test_step_ldhAE8 :
    after (((cpu [0xF0#8, 0xFF#8]).memWrite 0xFFFF#16 0x15#8))
      (fun t => t.regs.a) =
    some 0x15#8 := by decide

theorem test_step_ldiHLA :
    after { cpu [0x22#8] with
        regs := { zeroRegs with h := 0xFF#8, l := 0xFF#8, a := 0x56#8 } }
      (fun t => (t.hl, t.byteAt 0xFFFF#16)) =
    some (0x0000#16, 0x56#8) := by decide

theorem test_step_ldiAHL :
    after { ((cpu [0x2A#8]).memWrite 0x01FF#16 0x56#8) with
        regs := { zeroRegs with h := 0x01#8, l := 0xFF#8 } }
      (fun t => (t.regs.a, t.hl)) =
    some (0x56#8, 0x0200#16) := by decide

theorem test_step_orR8 :
    after { cpu [0xB0#8] with
        regs := { zeroRegs with a := 0x00#8, b := 0x00#8 }
        flags := ⟨true, true, true, true⟩ }
      (fun t => (t.regs.a, t.flags.z, t.flags.n, t.flags.h, t.flags.c)) =
    some (0x00#8, true, false, false, false) := by decide

theorem test_step_popR16 :
    after { (((cpu [0xF1#8]).memWrite 0xFFFC#16 0x5F#8).memWrite 0xFFFD#16 0x3C#8) with
        sp := 0xFFFC#16 }
      (fun t => (t.regs.a, t.f, t.sp)) =
    some (0x3C#8, 0x50#8, 0xFFFE#16) := by decide

theorem test_step_pushR16 :
    after { cpu [0xE5#8] with
        regs := { zeroRegs with h := 0xAB#8, l := 0xCD#8 }
        sp := 0x0001#16 }
      (fun t => (t.sp, t.byteAt 0x0000#16, t.byteAt 0xFFFF#16)) =
    some (0xFFFF#16, 0xAB#8, 0xCD#8) := by decide

theorem test_step_resHL :
    after { ((cpu [0xCB#8, 0xBE#8]).memWrite 0xC000#16 0xFF#8) with
        regs := { zeroRegs with h := 0xC0#8, l := 0x00#8 }
        flags := ⟨true, true, true, true⟩ }
      (fun t => (t.byteAt 0xC000#16, t.flags.z, t.flags.n, t.flags.h, t.flags.c)) =
    some (0x7F#8, true, true, true, true) := by decide

theorem test_step_resR8 :
    after { cpu [0xCB#8, 0x87#8] with
        regs := { zeroRegs with a := 0x01#8 } }
      (fun t => (t.regs.a, t.flags.z, t.flags.n, t.flags.h, t.flags.c)) =
    some (0x00#8, false, false, false, false) := by decide

theorem test_step_ret :
    after { (((cpu [0xC9#8]).memWrite 0xFFFC#16 0x03#8).memWrite 0xFFFD#16 0x80#8) with
        sp := 0xFFFC#16 }
      (fun t => (t.pc, t.sp)) =
    some (0x8003#16, 0xFFFE#16) := by decide

theorem test_step_retCC :
    after { (((cpu [0xC8#8]).memWrite 0xFFFC#16 0x03#8).memWrite 0xFFFD#16 0x80#8) with
        flags := ⟨true, false, false, false⟩
        sp := 0xFFFC#16 }
      (fun t => (t.pc, t.sp)) =
    some (0x8003#16, 0xFFFE#16) := by decide

theorem test_step_reti :
    after { (((cpu [0xD9#8]).memWrite 0xCFFC#16 0x34#8).memWrite 0xCFFD#16 0x12#8) with
        sp := 0xCFFC#16 }
      (fun t => (t.ime, t.pc, t.sp)) =
    some (true, 0x1234#16, 0xCFFE#16) := by decide

theorem test_step_rlHL :
    after { ((cpu [0xCB#8, 0x16#8]).memWrite 0xC000#16 0x80#8) with
        regs := { zeroRegs with h := 0xC0#8, l := 0x00#8 } }
      (fun t => (t.byteAt 0xC000#16, t.flags.z, t.flags.n, t.flags.h, t.flags.c)) =
    some (0x00#8, true, false, false, true) := by decide

theorem test_step_rlR8 :
    after { cpu [0xCB#8, 0x10#8] with
        regs := { zeroRegs with b := 0xA5#8 }
        flags := ⟨false, true, true, true⟩ }
      (fun t => (t.regs.b, t.flags.z, t.flags.c, t.flags.n, t.flags.h)) =
    some (0x4B#8, false, true, false, false) := by decide

theorem test_step_rla :
    after { cpu [0x17#8] with
        regs := { zeroRegs with a := 0x95#8 }
        flags := ⟨true, true, false, true⟩ }
      (fun t => (t.regs.a, t.flags.z, t.flags.c, t.flags.n, t.flags.h)) =
    some (0x2B#8, false, true, false, false) := by decide

theorem test_step_rlcHL :
    after { ((cpu [0xCB#8, 0x06#8]).memWrite 0xC000#16 0x85#8) with
        regs := { zeroRegs with h := 0xC0#8, l := 0x00#8 } }
      (fun t => (t.byteAt 0xC000#16, t.flags.z, t.flags.n, t.flags.h, t.flags.c)) =
    some (0x0B#8, false, false, false, true) := by decide

theorem test_step_rlcR8 :
    after { cpu [0xCB#8, 0x00#8] with
        regs := { zeroRegs with b := 0xA5#8 }
        flags := ⟨false, true, true, true⟩ }
      (fun t => (t.regs.b, t.flags.z, t.flags.c, t.flags.n, t.flags.h)) =
    some (0x4B#8, false, true, false, false) := by decide

theorem test_step_rlca :
    after { cpu [0x07#8] with
        regs := { zeroRegs with a := 0x95#8 }
        flags := ⟨true, true, false, true⟩ }
      (fun t => (t.regs.a, t.flags.z, t.flags.c, t.flags.n, t.flags.h)) =
    some (0x2B#8, false, true, false, false) := by decide

theorem test_step_rrHL :
    after { ((cpu [0xCB#8, 0x1E#8]).memWrite 0xC000#16 0x01#8) with
        regs := { zeroRegs with h := 0xC0#8, l := 0x00#8 } }
      (fun t => (t.byteAt 0xC000#16, t.flags.z, t.flags.n, t.flags.h, t.flags.c)) =
    some (0x00#8, true, false, false, true) := by decide

theorem test_step_rrR8 :
    after { cpu [0xCB#8, 0x18#8] with
        regs := { zeroRegs with b := 0xA5#8 }
        flags := ⟨false, true, true, true⟩ }
      (fun t => (t.regs.b, t.flags.z, t.flags.c, t.flags.n, t.flags.h)) =
    some (0xD2#8, false, true, false, false) := by decide

theorem test_step_rra :
    after { cpu [0x1F#8] with
        regs := { zeroRegs with a := 0x95#8 }
        flags := ⟨true, true, false, true⟩ }
      (fun t => (t.regs.a, t.flags.z, t.flags.c, t.flags.n, t.flags.h)) =
    some (0xCA#8, false, true, false, false) := by decide

theorem test_step_rrcHL :
    after { ((cpu [0xCB#8, 0x0E#8]).memWrite 0xC000#16 0x01#8) with
        regs := { zeroRegs with h := 0xC0#8, l := 0x00#8 } }
      (fun t => (t.byteAt 0xC000#16, t.flags.z, t.flags.n, t.flags.h, t.flags.c)) =
    some (0x80#8, false, false, false, true) := by decide

theorem test_step_rrcR8 :
    after { cpu [0xCB#8, 0x08#8] with
        regs := { zeroRegs with b := 0xA5#8 }
        flags := ⟨false, true, true, true⟩ }
      (fun t => (t.regs.b, t.flags.z, t.flags.c, t.flags.n, t.flags.h)) =
    some (0xD2#8, false, true, false, false) := by decide

theorem test_step_rrca :
    after { cpu [0x0F#8] with
        regs := { zeroRegs with a := 0x95#8 }
        flags := ⟨true, true, false, true⟩ }
      (fun t => (t.regs.a, t.flags.z, t.flags.c, t.flags.n, t.flags.h)) =
    some (0xCA#8, false, true, false, false) := by decide

theorem test_step_rst :
    after { ((cpu []).memWrite 0xFFFF#16 0xC7#8) with
        pc := 0xFFFF#16
        sp := 0xE000#16 }
      (fun t => (t.pc, t.sp, t.byteAt 0xDFFF#16, t.byteAt 0xDFFE#16)) =
    some (0x0000#16, 0xDFFE#16, 0x00#8, 0x00#8) := by decide

theorem test_step_sbcR8 :
    after { cpu [0x98#8] with
        regs := { zeroRegs with a := 0x00#8, b := 0x00#8 }
        flags := ⟨false, false, false, true⟩ }
      (fun t => (t.regs.a, t.flags.z, t.flags.n, t.flags.h, t.flags.c)) =
    some (0xFF#8, false, true, true, true) := by decide

theorem test_step_scf :
    after { cpu [0x37#8] with
        flags := ⟨true, true, true, false⟩ }
      (fun t => (t.flags.z, t.flags.n, t.flags.h, t.flags.c)) =
    some (true, false, false, true) := by decide

theorem test_step_setHL :
    after { ((cpu [0xCB#8, 0xDE#8]).memWrite 0xC000#16 0x00#8) with
        regs := { zeroRegs with h := 0xC0#8, l := 0x00#8 } }
      (fun t => (t.byteAt 0xC000#16, t.flags.z, t.flags.n, t.flags.h, t.flags.c)) =
    some (0x08#8, false, false, false, false) := by decide

theorem test_step_setR8 :
    after { cpu [0xCB#8, 0xC0#8] with
        regs := { zeroRegs with b := 0xFE#8 } }
      (fun t => (t.regs.b, t.flags.z, t.flags.n, t.flags.h, t.flags.c)) =
    some (0xFF#8, false, false, false, false) := by decide

theorem test_step_slaHL :
    after { ((cpu [0xCB#8, 0x26#8]).memWrite 0xC000#16 0xFF#8) with
        regs := { zeroRegs with h := 0xC0#8, l := 0x00#8 } }
      (fun t => (t.byteAt 0xC000#16, t.flags.z, t.flags.n, t.flags.h, t.flags.c)) =
    some (0xFE#8, false, false, false, true) := by decide

theorem test_step_slaR8 :
    after { cpu [0xCB#8, 0x20#8] with
        regs := { zeroRegs with b := 0xA5#8 }
        flags := ⟨false, true, true, true⟩ }
      (fun t => (t.regs.b, t.flags.z, t.flags.c, t.flags.n, t.flags.h)) =
    some (0x4A#8, false, true, false, false) := by decide

theorem test_step_sraHL :
    after { ((cpu [0xCB#8, 0x2E#8]).memWrite 0xC000#16 0x81#8) with
        regs := { zeroRegs with h := 0xC0#8, l := 0x00#8 } }
      (fun t => (t.byteAt 0xC000#16, t.flags.z, t.flags.n, t.flags.h, t.flags.c)) =
    some (0xC0#8, false, false, false, true) := by decide

theorem test_step_sraR8 :
    after { cpu [0xCB#8, 0x28#8] with
        regs := { zeroRegs with b := 0xA5#8 }
        flags := ⟨false, true, true, true⟩ }
      (fun t => (t.regs.b, t.flags.z, t.flags.c, t.flags.n, t.flags.h)) =
    some (0xD2#8, false, true, false, false) := by decide

theorem test_step_srlHL :
    after { ((cpu [0xCB#8, 0x3E#8]).memWrite 0xC000#16 0xFF#8) with
        regs := { zeroRegs with h := 0xC0#8, l := 0x00#8 } }
      (fun t => (t.byteAt 0xC000#16, t.flags.z, t.flags.n, t.flags.h, t.flags.c)) =
    some (0x7F#8, false, false, false, true) := by decide

theorem test_step_srlR8 :
    after { cpu [0xCB#8, 0x38#8] with
        regs := { zeroRegs with b := 0xA5#8 }
        flags := ⟨false, true, true, true⟩ }
      (fun t => (t.regs.b, t.flags.z, t.flags.c, t.flags.n, t.flags.h)) =
    some (0x52#8, false, true, false, false) := by decide

theorem test_step_subR8 :
    after { cpu [0x90#8] with
        regs := { zeroRegs with a := 0x80#8, b := 0x01#8 } }
      (fun t => (t.regs.a, t.flags.z, t.flags.n, t.flags.h, t.flags.c)) =
    some (0x7F#8, false, true, true, false) := by decide

theorem test_step_swapHL :
    after { ((cpu [0xCB#8, 0x36#8]).memWrite 0xC000#16 0xF0#8) with
        regs := { zeroRegs with h := 0xC0#8, l := 0x00#8 }
        flags := ⟨false, false, false, true⟩ }
      (fun t => (t.byteAt 0xC000#16, t.flags.z, t.flags.n, t.flags.h, t.flags.c)) =
    some (0x0F#8, false, false, false, false) := by decide

theorem test_step_swapR8 :
    after { cpu [0xCB#8, 0x30#8] with
        regs := { zeroRegs with b := 0xA5#8 }
        flags := ⟨false, true, true, true⟩ }
      (fun t => (t.regs.b, t.flags.z, t.flags.c, t.flags.n, t.flags.h)) =
    some (0x5A#8, false, false, false, false) := by decide

theorem test_step_xorR8 :
    after { cpu [0xA8#8] with
        regs := { zeroRegs with a := 0xFF#8, b := 0x0F#8 } }
      (fun t => (t.regs.a, t.flags.z, t.flags.n, t.flags.h, t.flags.c)) =
    some (0xF0#8, false, false, false, false) := by decide

/-! ## One step, worked out by hand from the rules that spec/95_test_vectors.md gives no example for -/

/-- The CPU of `cpu`, with HL = C000h and a byte there. -/
def cpuHL (code : List Byte) (v a : Byte) (c : Bool) : State :=
  { (cpu code).memWrite 0xC000#16 v with
    regs := { zeroRegs with a := a, h := 0xC0#8, l := 0x00#8 }
    flags := ⟨false, false, false, c⟩ }

theorem test_step_adcHL :
    after (cpuHL [0x8E#8] 0xF0#8 0x0F#8 true) (fun t => (t.regs.a, t.flags)) =
    some (0x00#8, ⟨true, false, true, true⟩) := by decide

theorem test_step_addHL :
    after (cpuHL [0x86#8] 0xC6#8 0x3A#8 true) (fun t => (t.regs.a, t.flags)) =
    some (0x00#8, ⟨true, false, true, true⟩) := by decide

theorem test_step_subHL :
    after (cpuHL [0x96#8] 0x40#8 0x3E#8 true) (fun t => (t.regs.a, t.flags)) =
    some (0xFE#8, ⟨false, true, false, true⟩) := by decide

theorem test_step_sbcHL :
    after (cpuHL [0x9E#8] 0x4F#8 0x3B#8 true) (fun t => (t.regs.a, t.flags)) =
    some (0xEB#8, ⟨false, true, true, true⟩) := by decide

theorem test_step_andHL :
    after (cpuHL [0xA6#8] 0x3F#8 0x5A#8 true) (fun t => (t.regs.a, t.flags)) =
    some (0x1A#8, ⟨false, false, true, false⟩) := by decide

theorem test_step_xorHL :
    after (cpuHL [0xAE#8] 0x8A#8 0xFF#8 true) (fun t => (t.regs.a, t.flags)) =
    some (0x75#8, ⟨false, false, false, false⟩) := by decide

theorem test_step_orHL :
    after (cpuHL [0xB6#8] 0x0F#8 0x5A#8 true) (fun t => (t.regs.a, t.flags)) =
    some (0x5F#8, ⟨false, false, false, false⟩) := by decide

theorem test_step_cpHL :
    after (cpuHL [0xBE#8] 0x40#8 0x3C#8 false) (fun t => (t.regs.a, t.flags)) =
    some (0x3C#8, ⟨false, true, false, true⟩) := by decide

theorem test_step_incHL :
    after (cpuHL [0x34#8] 0xFF#8 0x00#8 true) (fun t => (t.byteAt 0xC000#16, t.flags)) =
    some (0x00#8, ⟨true, false, true, true⟩) := by decide

theorem test_step_decHL :
    after (cpuHL [0x35#8] 0x00#8 0x00#8 true) (fun t => (t.byteAt 0xC000#16, t.flags)) =
    some (0xFF#8, ⟨false, true, true, true⟩) := by decide

theorem test_step_adcN8 :
    after (cpuHL [0xCE#8, 0x3B#8] 0 0xE1#8 true) (fun t => (t.regs.a, t.flags, t.pc)) =
    some (0x1D#8, ⟨false, false, false, true⟩, 0x5002#16) := by decide

theorem test_step_subN8 :
    after (cpuHL [0xD6#8, 0x0F#8] 0 0x3E#8 false) (fun t => (t.regs.a, t.flags, t.pc)) =
    some (0x2F#8, ⟨false, true, true, false⟩, 0x5002#16) := by decide

theorem test_step_sbcN8 :
    after (cpuHL [0xDE#8, 0x3A#8] 0 0x3B#8 true) (fun t => (t.regs.a, t.flags, t.pc)) =
    some (0x00#8, ⟨true, true, false, false⟩, 0x5002#16) := by decide

theorem test_step_andN8 :
    after (cpuHL [0xE6#8, 0x38#8] 0 0x5A#8 true) (fun t => (t.regs.a, t.flags, t.pc)) =
    some (0x18#8, ⟨false, false, true, false⟩, 0x5002#16) := by decide

theorem test_step_xorN8 :
    after (cpuHL [0xEE#8, 0x0F#8] 0 0xFF#8 true) (fun t => (t.regs.a, t.flags, t.pc)) =
    some (0xF0#8, ⟨false, false, false, false⟩, 0x5002#16) := by decide

theorem test_step_orN8 :
    after (cpuHL [0xF6#8, 0x03#8] 0 0x5A#8 true) (fun t => (t.regs.a, t.flags, t.pc)) =
    some (0x5B#8, ⟨false, false, false, false⟩, 0x5002#16) := by decide

theorem test_step_cpN8 :
    after (cpuHL [0xFE#8, 0x3C#8] 0 0x3C#8 false) (fun t => (t.regs.a, t.flags, t.pc)) =
    some (0x3C#8, ⟨true, true, false, false⟩, 0x5002#16) := by decide

theorem test_step_nop :
    after (cpu [0x00#8]) (fun t => (t.pc, t.mode)) = some (0x5001#16, .running) := by decide

theorem test_step_di :
    after { cpu [0xF3#8] with ime := true } (fun t => (t.pc, t.ime, t.eiPending)) =
    some (0x5001#16, false, false) := by decide

theorem test_step_ei :
    after (cpu [0xFB#8]) (fun t => (t.pc, t.ime, t.eiPending)) =
    some (0x5001#16, false, true) := by decide

theorem test_step_after_ei :
    after { cpu [0x00#8] with eiPending := true } (fun t => (t.pc, t.ime, t.eiPending)) =
    some (0x5001#16, true, false) := by decide

theorem test_step_halt :
    after (cpu [0x76#8]) (fun t => (t.pc, t.mode)) = some (0x5001#16, .halted) := by decide

theorem test_step_halt_refused :
    step { cpu [0x76#8] with intCtl := .gameBoy 0x04#8 0b00100#5 } =
    .refused .haltWithRequestPending := rfl

theorem test_step_stop :
    after (cpu [0x10#8, 0xFF#8]) (fun t => (t.pc, t.mode, t.history)) =
    some (0x5002#16, .stopped, [.read 0x5000#16 0x10#8]) := by decide

theorem test_step_unassigned :
    after (cpu [0xED#8]) (fun t => (t.pc, t.mode, t.eiPending)) =
    some (0x5000#16, .locked 0xED#8, false) := by decide

/-- The second opcode byte 37h is SWAP A (R92). -/
theorem test_exec_prefixCB :
    exec .prefixCB { cpu [0xCB#8, 0x37#8] with regs := { zeroRegs with a := 0xF1#8 } } =
    exec (.swapR8 .a)
      { cpu [0xCB#8, 0x37#8] with
        regs := { zeroRegs with a := 0xF1#8 }
        history := [.read 0x5001#16 0x37#8] } := rfl

/-- R308: request 2 (timer) enters at 0050h; the pc goes to the stack, high byte at the higher address. -/
theorem test_interrupt_entry :
    after { cpu [0x00#8] with ime := true, intCtl := .gameBoy 0x1F#8 0b10100#5 }
      (fun t => (t.pc, t.sp, t.byteAt 0xCFFF#16, t.byteAt 0xCFFE#16, t.ime, t.intCtl)) =
    some (0x0050#16, 0xCFFE#16, 0x50#8, 0x00#8, false, .gameBoy 0x1F#8 0b10000#5) := by decide

/-- R347 with log entry 26: with IME = 1 a state is not final when its enabled request arrives at this
very boundary; without the request it is, and a locked state never is. -/
theorem test_final :
    ({ cpu [] with ime := true, intCtl := .gameBoy 0x04#8 0#5 }.final 0x5000#16 = true) ∧
      ({ cpu [] with
          ime := true, intCtl := .gameBoy 0x04#8 0#5, arrivals := [⟨none, [.raise 2], false⟩] }.final
        0x5000#16 = false) ∧
      ({ cpu [] with arrivals := [⟨some bareReset, [], false⟩] }.final 0x5000#16 = false) ∧
      ({ cpu [] with mode := .locked 0xD3#8 }.final 0x5000#16 = false) ∧
      ({ cpu [] with mode := .locked 0xD3#8 }.faulted = true) := by decide

/-- R303: a store of 3Fh to FF0Fh puts its five low bits into IF. -/
theorem test_store_to_IF :
    (((cpu []).memWrite 0xFF0F#16 0x3F#8).intCtl = (cpu []).intCtl.afterStore 0xFF0F#16 0x3F#8) ∧
      ((IntCtl.gameBoy 0x12#8 0#5).afterStore 0xFF0F#16 0x3F#8 = .gameBoy 0x12#8 0b11111#5) := by decide

/-- The host's word of CALL 1234h, numbered with the first byte lowest. -/
theorem test_table_word_call : decodeTableWord 24 0x1234CD = some (.call 0x1234#16) := by decide

/-- Placed where the reset state fetches next, it runs. -/
theorem test_placed_word_runs :
    after (State.reset.withFetchWord 24 0x1234CD) (fun t => (t.pc, t.sp)) =
    some (0x1234#16, 0xFFFE#16) := by decide

/-! ## For every statement with hypotheses, values that meet them together -/

theorem witness_DecodeReadsBackEveryEncoding :
    (Instr.ldR16N16 .sp 0xFFFF#16).wellFormed = true ∧
      (Instr.unassigned 0xFD#8).wellFormed = true := by decide

theorem witness_DecodedBytesAreTheEncoding :
    (0x10#8 : Byte) = 0x10#8 ∧ (0x11#8 : Byte) ≠ 0x10#8 := by decide

theorem witness_DaaCorrectsBcdAdditionAndSubtraction :
    isBcd 0x99#8 ∧ isBcd 0x00#8 ∧ isBcd (cpuHL [] 0 0x99#8 true).regs.a := by decide

theorem witness_StoreOfSPWritesLowByteFirst : (cpu []).sp = (0xD0#8 ++ 0x00#8 : Word) := by decide

theorem witness_PushStoresHighByteThenLowByte :
    { cpu [] with regs := { zeroRegs with a := 0x12#8 } }.r16Stk .af = (0x12#8 ++ 0x00#8 : Word) ∧
      { cpu [] with regs := { zeroRegs with d := 0x12#8, e := 0x34#8 } }.r16Stk .de =
        (0x12#8 ++ 0x34#8 : Word) := by decide

theorem witness_PopAfterPushReturnsThePair :
    (cpu []).mem.wf = true ∧ (cpu []).plainRam ((cpu []).sp - 1) ∧
      (cpu []).plainRam ((cpu []).sp - 2) ∧ (R16Stk.af = .af → R16Stk.af = .af) ∧
      (R16Stk.de = .af → R16Stk.bc = .af) := by decide

theorem witness_RetAfterCallReturnsBehindTheCall :
    (cpu []).mem.wf = true ∧ (cpu []).plainRam ((cpu []).sp - 1) ∧
      (cpu []).plainRam ((cpu []).sp - 2) := by decide

/-- A stack that runs down to the lowest address: SP = 0002h. -/
theorem witness_RetAfterCallReturnsBehindTheCall_low :
    { cpu [] with sp := 0x0002#16 }.plainRam (0x0002#16 - 1) ∧
      { cpu [] with sp := 0x0002#16 }.plainRam (0x0002#16 - 2) := by decide

/-- A CPU whose controller has the timer's request pending and enabled. -/
def asked (code : List Byte) : State := { cpu code with intCtl := .gameBoy 0x04#8 0b00100#5 }

/-- The same CPU, to which the request comes at this boundary. -/
def unasked (code : List Byte) : State :=
  { cpu code with intCtl := .gameBoy 0x04#8 0#5, arrivals := [⟨none, [.raise 2], false⟩] }

/-- Both outcomes of a condition, for CALL cc, JP cc, JR cc and RET cc. -/
theorem witness_conditions :
    conditionTrue .nz (cpu []).flags = true ∧ conditionTrue .z (cpu []).flags = false := by decide

theorem witness_HaltEntersHaltedOrIsRefused :
    ({ asked [] with ime := true }.ime = true) ∧ ((cpu []).ime = false) ∧
      ((cpu []).intCtl.pending = none) ∧
      ((asked []).ime = false ∧ (asked []).intCtl.pending ≠ none) := by decide

/-- Nothing arrives; the timer's request arrives, enabled; a source of another controller is raised
that is not enabled. -/
theorem witness_HaltedWaitsForAnEnabledRequest :
    (let s := { cpu [] with mode := .halted };
      s.arrival.reset = none ∧ s.mode = .halted ∧
        (s.arrival.irqs.foldl IntCtl.event s.intCtl).pending = none) ∧
    (let s := { unasked [] with mode := .halted };
      s.arrival.reset = none ∧ s.mode = .halted ∧
        (s.arrival.irqs.foldl IntCtl.event s.intCtl).pending ≠ none) ∧
    (let s := { unasked [] with
        mode := .halted
        intCtl := .sources [⟨0, false, false⟩, ⟨1, true, false⟩, ⟨2, false, false⟩] none };
      s.arrival.reset = none ∧ s.mode = .halted ∧
        (s.arrival.irqs.foldl IntCtl.event s.intCtl).pending = none) := by decide

theorem witness_StoppedWaitsForStopWake :
    (let s := { asked [] with mode := .stopped, ime := true, arrivals := [⟨none, [], true⟩] };
      s.mode = .stopped ∧ s.arrivals = ⟨none, [], true⟩ :: []) ∧
    (let s := { asked [] with mode := .stopped, ime := true, arrivals := [⟨none, [.raise 0], false⟩] };
      s.mode = .stopped ∧ s.arrivals = ⟨none, [.raise 0], false⟩ :: []) := by decide

theorem witness_UnassignedOpcodeLocksTheCpu :
    let s := { asked [] with mode := .locked 0xD3#8, ime := true }
    s.mode = .locked 0xD3#8 ∧ s.arrival.reset = none := by decide

/-- The CPU on the original Game Boy's map (R58). -/
def onGameBoy : State := { cpu [] with bus := Config.gameBoyBus false }

/-- Each kind of address at the ends of a range of R58. -/
theorem witness_ReadsAnswerByTheKindOfAddress :
    (onGameBoy.kindAt 0x0000#16 = .rom ∧ onGameBoy.intCtl.register 0x0000#16 = none) ∧
    (onGameBoy.kindAt 0x7FFF#16 = .rom ∧ onGameBoy.intCtl.register 0x7FFF#16 = none) ∧
    (onGameBoy.kindAt 0x8000#16 = .device ∧ onGameBoy.intCtl.register 0x8000#16 = none) ∧
    (onGameBoy.kindAt 0xFE9F#16 = .device ∧ onGameBoy.intCtl.register 0xFE9F#16 = none) ∧
    (onGameBoy.kindAt 0xFEA0#16 = .unmapped ∧ onGameBoy.intCtl.register 0xFEA0#16 = none) ∧
    (onGameBoy.kindAt 0xFEFF#16 = .unmapped ∧ onGameBoy.intCtl.register 0xFEFF#16 = none) ∧
    (onGameBoy.kindAt 0xFF80#16 = .ram ∧ onGameBoy.intCtl.register 0xFF80#16 = none) ∧
    (onGameBoy.kindAt 0xFFFE#16 = .ram ∧ onGameBoy.intCtl.register 0xFFFE#16 = none) := by decide

theorem witness_WritesActByTheKindOfAddress :
    onGameBoy.mem.wf = true ∧ onGameBoy.plainRam 0xFF80#16 ∧ onGameBoy.plainRam 0xFFFE#16 ∧
    (onGameBoy.kindAt 0x7FFF#16 ≠ .ram ∧ onGameBoy.intCtl.register 0x7FFF#16 = none) ∧
    (onGameBoy.kindAt 0xFEA0#16 ≠ .ram ∧ onGameBoy.intCtl.register 0xFEA0#16 = none) := by decide

/-- One request at each end of the range of R303, and none; the second of three sources, and none. -/
theorem witness_ControllersRaiseServeAndAcknowledgeRequests :
    (IntCtl.gameBoy 0xFF#8 0b10001#5).pending = some 0 ∧
      (IntCtl.gameBoy 0xF0#8 0b10001#5).pending = some 4 ∧
      (IntCtl.gameBoy 0xE0#8 0b11111#5).pending = none ∧
      (IntCtl.sources [⟨8, false, true⟩, ⟨16, true, true⟩, ⟨24, true, true⟩] none).pending = some 1 ∧
      (IntCtl.sources [⟨8, false, true⟩] none).pending = none := by decide

theorem witness_CpuReadsAndWritesIEAndIF : (asked []).intCtl = .gameBoy 0x04#8 0b00100#5 := by decide

/-- An instruction of three bytes with an EI pending and a request arriving that IME masks; DI and an
unassigned byte with an EI pending; a HALT that is refused. -/
theorem witness_StepRunsTheDecodedInstruction :
    (let s := { unasked [0xCD#8, 0x34#8, 0x12#8] with eiPending := true };
      (Instr.call 0x1234#16).wellFormed = true ∧ s.arrival.reset = none ∧ s.mode = .running ∧
        s.ime = false ∧ s.holdsAt s.pc (fetchedBytes (.call 0x1234#16)) ∧
        after s (fun t => (t.pc, t.ime)) = some (0x1234#16, true)) ∧
    (let s := { cpu [0xF3#8] with eiPending := true, ime := true };
      Instr.di.wellFormed = true ∧ s.arrival.reset = none ∧ s.mode = .running ∧
        (s.arrival.irqs.foldl IntCtl.event s.intCtl).pending = none ∧
        s.holdsAt s.pc (fetchedBytes .di) ∧ after s (fun t => t.ime) = some false) ∧
    (let s := { cpu [0xD3#8] with eiPending := true };
      (Instr.unassigned 0xD3#8).wellFormed = true ∧ s.arrival.reset = none ∧ s.mode = .running ∧
        s.ime = false ∧ s.holdsAt s.pc (fetchedBytes (.unassigned 0xD3#8)) ∧
        after s (fun t => (t.mode, t.ime)) = some (.locked 0xD3#8, false)) ∧
    (let s := unasked [0x76#8];
      Instr.halt.wellFormed = true ∧ s.arrival.reset = none ∧ s.mode = .running ∧ s.ime = false ∧
        s.holdsAt s.pc (fetchedBytes .halt) ∧ step s = .refused .haltWithRequestPending) :=
  ⟨⟨by decide, by decide, by decide, by decide,
      ⟨.inl (by decide), by decide, by decide, .inl (by decide), by decide, by decide,
        .inl (by decide), by decide, by decide, trivial⟩, by decide⟩,
    ⟨by decide, by decide, by decide, by decide,
      ⟨.inl (by decide), by decide, by decide, trivial⟩, by decide⟩,
    ⟨by decide, by decide, by decide, by decide,
      ⟨.inl (by decide), by decide, by decide, trivial⟩, by decide⟩,
    ⟨by decide, by decide, by decide, by decide,
      ⟨.inl (by decide), by decide, by decide, trivial⟩, rfl⟩⟩

/-- The hypotheses of an interrupt entry that is not refused: for a request that arrives at this
boundary, and with SP just above the mask byte's address: SP = 0002h pushes to 0001h and 0000h. -/
theorem witness_InterruptEntrySavesThePcAndMasksInterrupts :
    (let s := { unasked [] with ime := true };
      let c := s.arrival.irqs.foldl IntCtl.event s.intCtl;
      s.arrival.reset = none ∧ s.mode = .running ∧ s.ime = true ∧ c.pending = some 2 ∧
        c.maskAddr ≠ some (s.sp - 1) ∧ c.maskAddr ≠ some (s.sp - 2)) ∧
    (let s := { asked [] with ime := true, sp := 0x0002#16 };
      let c := s.arrival.irqs.foldl IntCtl.event s.intCtl;
      s.arrival.reset = none ∧ s.mode = .running ∧ s.ime = true ∧ c.pending = some 2 ∧
        c.maskAddr ≠ some (s.sp - 1) ∧ c.maskAddr ≠ some (s.sp - 2)) := by decide

/-- Both addresses that make an entry refused: SP = 0000h and SP = 0001h. -/
theorem witness_InterruptEntryOverTheEnableMaskIsRefused :
    (let s := { asked [] with ime := true, sp := 0x0000#16 };
      let c := s.arrival.irqs.foldl IntCtl.event s.intCtl;
      s.arrival.reset = none ∧ s.mode = .running ∧ s.ime = true ∧ c.pending = some 2 ∧
        c.maskAddr = some (s.sp - 1)) ∧
    (let s := { unasked [] with ime := true, sp := 0x0001#16 };
      let c := s.arrival.irqs.foldl IntCtl.event s.intCtl;
      s.arrival.reset = none ∧ s.mode = .running ∧ s.ime = true ∧ c.pending = some 2 ∧
        c.maskAddr = some (s.sp - 2)) := by decide

theorem witness_EiEnablesAfterTheNextInstruction :
    let s := { asked [0xFB#8, 0x00#8] with arrivals := [⟨none, [.raise 0], true⟩] }
    s.mode = .running ∧ s.ime = false ∧ s.eiPending = false ∧
      (∀ x ∈ s.arrivals, x.reset = none) ∧ s.holdsAt s.pc [0xFB#8, 0x00#8] :=
  ⟨by decide, by decide, by decide, by decide,
    .inl (by decide), by decide, by decide, .inl (by decide), by decide, by decide, trivial⟩

theorem witness_EiThenDiNeverEnables :
    let s := { asked [0xFB#8, 0xF3#8] with arrivals := [⟨none, [.raise 0], true⟩] }
    s.mode = .running ∧ s.ime = false ∧ s.eiPending = false ∧
      (∀ x ∈ s.arrivals, x.reset = none) ∧ s.holdsAt s.pc [0xFB#8, 0xF3#8] :=
  ⟨by decide, by decide, by decide, by decide,
    .inl (by decide), by decide, by decide, .inl (by decide), by decide, by decide, trivial⟩

/-- From mode Locked, with IE and IF set, and with a request raised at the same boundary. -/
theorem witness_ResetSetsEveryItemOfCpuState :
    let s :=
      { asked [] with mode := .locked 0xD3#8, arrivals := [⟨some dmgPostBoot, [.raise 0], false⟩] }
    s.arrivals = ⟨some dmgPostBoot, [.raise 0], false⟩ :: [] ∧
      after s (fun t => (t.mode, t.pc, t.intCtl)) =
        some (.running, 0x0101#16, .gameBoy 0x00#8 0b00001#5) := by decide

/-- The invariant holds, and a step goes on, in a state with an EI waiting and in a locked state to which a
reset comes. -/
theorem witness_EveryStepKeepsTheInvariant :
    ({ cpu [0x76#8] with eiPending := true }.Inv ∧
      after { cpu [0x76#8] with eiPending := true } (fun t => t.mode) = some .halted) ∧
    (let s := { cpu [] with mode := .locked 0xD3#8, arrivals := [⟨some bareReset, [], false⟩] };
      s.Inv ∧ after s (fun t => t.mode) = some .running) := by
  refine ⟨⟨⟨by decide, fun _ => rfl, fun op h => by cases h⟩, by decide⟩,
    ⟨by decide, fun h => (by cases h), ?_⟩, by decide⟩
  intro op h
  cases h
  decide

theorem witness_OnlyTheListedInstructionsWriteFlags :
    writesFlags (.jp 0x1234#16) = false ∧
      exec (.jp 0x1234#16) (cpu []) = .next { cpu [] with pc := 0x1234#16 } := ⟨by decide, rfl⟩

theorem witness_OnlyDaaAndPushAFReadNAndH :
    Instr.adcHL ≠ .daa ∧ Instr.adcHL ≠ .pushR16 .af ∧ Instr.pushR16 .bc ≠ .pushR16 .af := by decide

theorem witness_OnlyTheListedInstructionsWriteSP :
    writesSP (.ldR16N16 .hl 0x1234#16) = false ∧
      exec .nop (cpu []) = .next { cpu [] with pc := 0x5001#16 } := ⟨by decide, rfl⟩

theorem witness_OnlyTheStoringInstructionsWriteMemory :
    writesMemory (.popR16 .af) = false ∧
      exec .nop (cpu []) = .next { cpu [] with pc := 0x5001#16 } ∧ writesMemory .nop = false :=
  ⟨by decide, rfl, by decide⟩

theorem witness_OnlyDiAndRetiChangeIme :
    Instr.ei ≠ .di ∧ Instr.ei ≠ .reti ∧
      exec .ei (cpu []) = .next { cpu [] with eiPending := true, pc := 0x5001#16 } :=
  ⟨by decide, by decide, rfl⟩

/-- A store by a program in RAM at FF80h to a ROM address. -/
theorem witness_NoStepChangesRom :
    let s := { onGameBoy.memWrite 0xFF80#16 0x12#8 with
      pc := 0xFF80#16, regs := { zeroRegs with a := 0x55#8, d := 0x40#8 } }
    after s (fun t => (t.pc, t.byteAt 0x4000#16)) = some (0xFF81#16, 0x00#8) ∧
      s.kindAt 0x4000#16 = .rom ∧ s.intCtl.register 0x4000#16 = none := by decide

theorem witness_EveryStepOnlyAddsToTheHistory :
    after (cpu [0x00#8]) (fun t => t.history) = some [.read 0x5000#16 0x00#8] := by decide

theorem witness_EveryInstructionButHaltCompletes : Instr.prefixCB ≠ .halt := by decide

end Sys2Proof.Tests
end

section
/-!
SUPPORT and PROOFS. What an instruction may write (spec/10_state.md R23, R27, R28), said once for all of
them: every next state of `exec` comes from the old one by the named updates, each of them allowed only where
the instruction's row allows it. Frames and invariants of `exec` are inductions over that.
-/

namespace Sys2Proof.Machine

/-! ## The rows: what each instruction may write -/

/-- DI and RETI write IME themselves (R193, R200); EI's effect on it is the step's (R201). -/
def writesIme (i : Instr) : Bool :=
  match i with
  | .di | .reti => true
  | _ => false

/-- DI, EI and RETI write ei_pending (R193, R200, R201). -/
def writesEiPending (i : Instr) : Bool :=
  match i with
  | .di | .ei | .reti => true
  | _ => false

/-- HALT, STOP and the unassigned opcodes write the run mode (R202, R204, R300). -/
def writesMode (i : Instr) : Bool :=
  match i with
  | .halt | .stop | .unassigned _ => true
  | _ => false

/-- The parts of the state that an instruction may need leave to write. -/
structure Writes where
  flags : Bool
  sp : Bool
  memory : Bool
  ime : Bool
  eiPending : Bool
  mode : Bool

/-- What an instruction may write, by the tables of Safety.lean and the three above. -/
def writesOf (i : Instr) : Writes :=
  { flags := writesFlags i
    sp := writesSP i
    memory := writesMemory i
    ime := writesIme i
    eiPending := writesEiPending i
    mode := writesMode i }

/-! ## States that come from `s` by allowed updates -/

/-- `t` comes from `s` by the named updates of the state. The general registers, the pc and reads are free
to all instructions; every other update needs its leave in `w`. -/
inductive Effect (w : Writes) (s : State) : State → Prop
  | refl : Effect w s s
  | regs {t : State} (x : Regs) (e : Effect w s t) : Effect w s { t with regs := x }
  | jump {t : State} (a : Word) (e : Effect w s t) : Effect w s (t.jump a)
  | read {t : State} (a : Word) (e : Effect w s t) : Effect w s (t.afterRead a)
  | flags {t : State} (leave : w.flags = true) (f : Flags) (e : Effect w s t) :
      Effect w s (t.setFlags f)
  | sp {t : State} (leave : w.sp = true) (v : Word) (e : Effect w s t) : Effect w s (t.setSP v)
  | write {t : State} (leave : w.memory = true) (a : Word) (v : Byte) (e : Effect w s t) :
      Effect w s (t.memWrite a v)
  | ime {t : State} (leave : w.ime = true) (b : Bool) (e : Effect w s t) :
      Effect w s { t with ime := b }
  | eiPending {t : State} (leave : w.eiPending = true) (b : Bool) (e : Effect w s t) :
      Effect w s { t with eiPending := b }
  | mode {t : State} (leave : w.mode = true) (m : Mode) (e : Effect w s t) :
      Effect w s { t with mode := m }

namespace Effect

/-! ### What is kept without leave -/

section Frames

variable {w : Writes} {s t : State}

theorem flags_eq (e : Effect w s t) (h : w.flags = false) : t.flags = s.flags := by
  induction e with
  | refl => rfl
  | flags leave => simp [h] at leave
  | write _ _ _ _ ih => rwa [State.memWrite_flags]
  | _ => assumption

theorem sp_eq (e : Effect w s t) (h : w.sp = false) : t.sp = s.sp := by
  induction e with
  | refl => rfl
  | sp leave => simp [h] at leave
  | write _ _ _ _ ih => rwa [State.memWrite_sp]
  | _ => assumption

theorem ime_eq (e : Effect w s t) (h : w.ime = false) : t.ime = s.ime := by
  induction e with
  | refl => rfl
  | ime leave => simp [h] at leave
  | write _ _ _ _ ih => rwa [State.memWrite_ime]
  | _ => assumption

theorem eiPending_eq (e : Effect w s t) (h : w.eiPending = false) : t.eiPending = s.eiPending := by
  induction e with
  | refl => rfl
  | eiPending leave => simp [h] at leave
  | write _ _ _ _ ih => rwa [State.memWrite_eiPending]
  | _ => assumption

theorem mode_eq (e : Effect w s t) (h : w.mode = false) : t.mode = s.mode := by
  induction e with
  | refl => rfl
  | mode leave => simp [h] at leave
  | write _ _ _ _ ih => rwa [State.memWrite_mode]
  | _ => assumption

/-- No update leaves the canonical form of memory. -/
theorem mem_wf (e : Effect w s t) (h : s.mem.wf = true) : t.mem.wf = true := by
  induction e with
  | refl => exact h
  | write _ a v _ ih => exact State.memWrite_wf _ a v ih
  | _ => assumption

end Frames

/-! ### The shared forms of the meanings -/

section Forms

variable {w : Writes} {s t : State}

theorem advance (n : Nat) (e : Effect w s t) : Effect w s (t.advance n) := e.jump _

theorem setReg16 (p : R16) (v : Word) (leave : p = .sp → w.sp = true) (e : Effect w s t) :
    Effect w s (t.setReg16 p v) := by
  cases p with
  | sp => exact e.sp (leave rfl) v
  | bc | de | hl => exact e.regs _

theorem setReg16Stk (p : R16Stk) (v : Word) (leave : p = .af → w.flags = true) (e : Effect w s t) :
    Effect w s (t.setReg16Stk p v) := by
  cases p with
  | af => exact (e.regs _).flags (leave rfl) _
  | bc | de | hl => exact e.regs _

theorem aluA (op : Byte → Byte → Byte × Flags) (y : Byte) (n : Nat) (leave : w.flags = true)
    (e : Effect w s t) : Effect w s (aluA op y n t) :=
  ((e.regs _).flags leave _).advance n

theorem aluAHL (op : Byte → Byte → Byte × Flags) (leave : w.flags = true) (e : Effect w s t) :
    Effect w s (aluAHL op t) :=
  (e.read _).aluA op _ 1 leave

theorem compareA (y : Byte) (n : Nat) (leave : w.flags = true) (e : Effect w s t) :
    Effect w s (compareA y n t) :=
  (e.flags leave _).advance n

theorem rotateA (op : Byte → Bool → Byte × Bool) (leave : w.flags = true) (e : Effect w s t) :
    Effect w s (rotateA op t) :=
  ((e.regs _).flags leave _).advance 1

theorem modifyR8 (op : Byte → Byte × Flags) (r : R8) (n : Nat) (leave : w.flags = true)
    (e : Effect w s t) : Effect w s (modifyR8 op r n t) :=
  ((e.regs _).flags leave _).advance n

theorem modifyHL (op : Byte → Byte × Flags) (n : Nat) (flagsLeave : w.flags = true)
    (memoryLeave : w.memory = true) (e : Effect w s t) : Effect w s (modifyHL op n t) :=
  (((e.read _).write memoryLeave _ _).flags flagsLeave _).advance n

theorem changeR8 (op : Byte → Byte) (r : R8) (e : Effect w s t) : Effect w s (changeR8 op r t) :=
  (e.regs _).advance 2

theorem changeHL (op : Byte → Byte) (leave : w.memory = true) (e : Effect w s t) :
    Effect w s (changeHL op t) :=
  ((e.read _).write leave _ _).advance 2

theorem loadA (a : Word) (n : Nat) (e : Effect w s t) : Effect w s (loadA a n t) :=
  ((e.read a).regs _).advance n

theorem push16 (v : Word) (spLeave : w.sp = true) (memoryLeave : w.memory = true)
    (e : Effect w s t) : Effect w s (t.push16 v) :=
  (((e.sp spLeave _).write memoryLeave _ _).sp spLeave _).write memoryLeave _ _

theorem callTo (back target : Word) (spLeave : w.sp = true) (memoryLeave : w.memory = true)
    (e : Effect w s t) : Effect w s (t.callTo back target) :=
  (e.push16 back spLeave memoryLeave).jump target

theorem afterPop (leave : w.sp = true) (e : Effect w s t) : Effect w s t.afterPop :=
  ((e.read _).read _).sp leave _

theorem returnFromStack (leave : w.sp = true) (e : Effect w s t) :
    Effect w s t.returnFromStack :=
  (e.afterPop leave).jump _

/-- The two outcomes of a conditional transfer. -/
theorem ite {c : Prop} [Decidable c] {u : State} (ht : Effect w s t) (hu : Effect w s u) :
    Effect w s (if c then t else u) := by
  split
  · exact ht
  · exact hu

/-- The state of an answer is an effect when the answer's state is. -/
theorem of_next {u : State} (h : (.next t : Result) = .next u) (e : Effect w s t) : Effect w s u := by
  cases h
  exact e

end Forms

end Effect

/-! ## Every meaning keeps to its row -/

theorem runRotateR8_effect {w : Writes} {s t u : State} {y : BitVec 3} {r : R8}
    (leave : w.flags = true) (e : Effect w s t) (h : runRotateR8 y r t = .next u) :
    Effect w s u := by
  simp only [runRotateR8] at h
  split at h <;> exact .of_next h (e.modifyR8 _ _ _ leave)

theorem runRotateHL_effect {w : Writes} {s t u : State} {y : BitVec 3} (flagsLeave : w.flags = true)
    (memoryLeave : w.memory = true) (e : Effect w s t) (h : runRotateHL y t = .next u) :
    Effect w s u := by
  simp only [runRotateHL] at h
  split at h <;> exact .of_next h (e.modifyHL _ _ flagsLeave memoryLeave)

/-- Whatever the second byte after CBh names writes registers, flags and the byte at HL at most (R92). -/
theorem runCB_effect {w : Writes} {s t u : State} {op2 : Byte} (flagsLeave : w.flags = true)
    (memoryLeave : w.memory = true) (e : Effect w s t) (h : runCB op2 t = .next u) :
    Effect w s u := by
  simp only [runCB] at h
  split at h
  · split at h
    · exact runRotateR8_effect flagsLeave e h
    · exact .of_next h ((e.flags flagsLeave _).advance 2)
    · exact .of_next h (e.changeR8 _ _)
    · exact .of_next h (e.changeR8 _ _)
  · split at h
    · exact runRotateHL_effect flagsLeave memoryLeave e h
    · exact .of_next h (((e.read _).flags flagsLeave _).advance 2)
    · exact .of_next h (e.changeHL _ memoryLeave)
    · exact .of_next h (e.changeHL _ memoryLeave)

/-- Every instruction that answers a next state comes there by the updates its row allows. -/
theorem exec_effect {i : Instr} {s u : State} (h : exec i s = .next u) : Effect (writesOf i) s u := by
  have e : Effect (writesOf i) s s := .refl
  cases i with
  | adcHL | addHL | andHL | orHL | sbcHL | subHL | xorHL => exact .of_next h (e.aluAHL _ rfl)
  | adcN8 | addN8 | andN8 | orN8 | sbcN8 | subN8 | xorN8
  | adcR8 | addR8 | andR8 | orR8 | sbcR8 | subR8 | xorR8 => exact .of_next h (e.aluA _ _ _ rfl)
  | cpHL => exact .of_next h ((e.read _).compareA _ _ rfl)
  | cpN8 | cpR8 => exact .of_next h (e.compareA _ _ rfl)
  | ccf | scf => exact .of_next h ((e.flags rfl _).advance 1)
  | cpl | daa => exact .of_next h (((e.regs _).flags rfl _).advance 1)
  | incR8 | decR8 | rlR8 | rlcR8 | rrR8 | rrcR8 | slaR8 | sraR8 | srlR8 | swapR8 =>
    exact .of_next h (e.modifyR8 _ _ _ rfl)
  | incHL | decHL | rlHL | rlcHL | rrHL | rrcHL | slaHL | sraHL | srlHL | swapHL =>
    exact .of_next h (e.modifyHL _ _ rfl rfl)
  | rla | rlca | rra | rrca => exact .of_next h (e.rotateA _ rfl)
  | addHLR16 | ldHLSPE8 => exact .of_next h (((e.regs _).flags rfl _).advance _)
  | addSPE8 => exact .of_next h (((e.sp rfl _).flags rfl _).advance 2)
  | incR16 | decR16 | ldR16N16 => exact .of_next h ((e.setReg16 _ _ decide_eq_true).advance _)
  | bitHL => exact .of_next h (((e.read _).flags rfl _).advance 2)
  | bitR8 => exact .of_next h ((e.flags rfl _).advance 2)
  | resHL | setHL => exact .of_next h (e.changeHL _ rfl)
  | resR8 | setR8 => exact .of_next h (e.changeR8 _ _)
  | call | rst => exact .of_next h (e.callTo _ _ rfl rfl)
  | callCC => exact .of_next h (.ite (e.callTo _ _ rfl rfl) (e.advance 3))
  | jp | jpHL | jr => exact .of_next h (e.jump _)
  | jpCC | jrCC => exact .of_next h (.ite (e.jump _) (e.advance _))
  | ret => exact .of_next h (e.returnFromStack rfl)
  | retCC => exact .of_next h (.ite (e.returnFromStack rfl) (e.advance 1))
  | reti => exact .of_next h (((e.returnFromStack rfl).ime rfl true).eiPending rfl false)
  | di => exact .of_next h (((e.ime rfl false).eiPending rfl false).advance 1)
  | ei => exact .of_next h ((e.eiPending rfl _).advance 1)
  | halt =>
    simp only [exec, execHalt] at h
    split at h
    · cases h
    · exact .of_next h ((e.mode rfl _).advance 1)
  | nop => exact .of_next h (e.advance 1)
  | stop => exact .of_next h ((e.mode rfl _).advance 2)
  | unassigned => exact .of_next h (e.mode rfl _)
  | ldCA | ldHLN8 | ldHLR8 | ldN16A | ldR16A | ldhE8A => exact .of_next h ((e.write rfl _ _).advance _)
  | ldN16SP => exact .of_next h (((e.write rfl _ _).write rfl _ _).advance 3)
  | lddHLA | ldiHLA => exact .of_next h (((e.write rfl _ _).regs _).advance 1)
  | ldAC | ldAN16 | ldAR16 | ldhAE8 => exact .of_next h (e.loadA _ _)
  | lddAHL | ldiAHL => exact .of_next h ((e.loadA _ _).regs _)
  | ldR8HL => exact .of_next h (((e.read _).regs _).advance 1)
  | ldR8N8 | ldR8R8 => exact .of_next h ((e.regs _).advance _)
  | ldSPHL => exact .of_next h ((e.sp rfl _).advance 1)
  | popR16 =>
    exact .of_next h (((e.afterPop rfl).setReg16Stk _ _ decide_eq_true).advance 1)
  | pushR16 => exact .of_next h ((e.push16 _ rfl rfl).advance 1)
  | prefixCB => exact runCB_effect rfl rfl (e.read _) h

/-! ## Flags, SP and IME -/

/-- Settles O53: an effect without leave to write flags keeps them. -/
theorem onlyTheListedInstructionsWriteFlags : Obligations.OnlyTheListedInstructionsWriteFlags :=
  fun _ _ _ noLeave h => (exec_effect h).flags_eq noLeave

/-- Settles O55: an effect without leave to write SP keeps it. -/
theorem onlyTheListedInstructionsWriteSP : Obligations.OnlyTheListedInstructionsWriteSP :=
  fun _ _ _ noLeave h => (exec_effect h).sp_eq noLeave

/-- DI and RETI are the only rows with leave to write IME. -/
theorem writesIme_eq_false {i : Instr} (hdi : i ≠ .di) (hreti : i ≠ .reti) : writesIme i = false := by
  cases i with
  | di => exact absurd rfl hdi
  | reti => exact absurd rfl hreti
  | _ => rfl

/-- Settles O57: an effect without leave to write IME keeps it. -/
theorem onlyDiAndRetiChangeIme : Obligations.OnlyDiAndRetiChangeIme :=
  fun _ _ _ hdi hreti h => (exec_effect h).ime_eq (writesIme_eq_false hdi hreti)

end Sys2Proof.Machine
end

section
/-!
PROOFS. Every step keeps the invariant (spec/10_state.md R29, R30; spec/60_exceptions.md R306;
spec/30_encoding.md R93).
-/

namespace Sys2Proof.Machine

/-! ## The decoder answers well-formed instructions only (R93, R95) -/

theorem aluOnR8_wellFormed (y : BitVec 3) (r : R8) : (aluOnR8 y r).wellFormed = true := by
  simp only [aluOnR8]
  split <;> rfl

theorem aluOnHL_wellFormed (y : BitVec 3) : (aluOnHL y).wellFormed = true := by
  simp only [aluOnHL]
  split <;> rfl

theorem aluOnN8_wellFormed (y : BitVec 3) (n : Byte) : (aluOnN8 y n).wellFormed = true := by
  simp only [aluOnN8]
  split <;> rfl

theorem rotateOnR8_wellFormed (y : BitVec 3) (r : R8) : (rotateOnR8 y r).wellFormed = true := by
  simp only [rotateOnR8]
  split <;> rfl

theorem rotateOnHL_wellFormed (y : BitVec 3) : (rotateOnHL y).wellFormed = true := by
  simp only [rotateOnHL]
  split <;> rfl

theorem decodeCB_wellFormed (op2 : Byte) : (decodeCB op2).wellFormed = true := by
  simp only [decodeCB]
  split
  · split
    case h_1 => exact rotateOnR8_wellFormed _ _
    all_goals rfl
  · split
    case h_1 => exact rotateOnHL_wellFormed _
    all_goals rfl

theorem decodeColumn0_wellFormed (op n : Byte) (w : Word) : (decodeColumn0 op n w).wellFormed = true := by
  simp only [decodeColumn0]
  split <;> rfl

theorem decodeColumn2_wellFormed (op : Byte) : (decodeColumn2 op).wellFormed = true := by
  simp only [decodeColumn2]
  split <;> rfl

theorem decodeColumn7_wellFormed (op : Byte) : (decodeColumn7 op).wellFormed = true := by
  simp only [decodeColumn7]
  split <;> rfl

theorem decodeBlock0_wellFormed (op n : Byte) (w : Word) : (decodeBlock0 op n w).wellFormed = true := by
  simp only [decodeBlock0]
  split
  · exact decodeColumn0_wellFormed op n w
  · split <;> rfl
  · exact decodeColumn2_wellFormed op
  · split <;> rfl
  · split <;> rfl
  · split <;> rfl
  · split <;> rfl
  · exact decodeColumn7_wellFormed op

theorem decodeBlock1_wellFormed (op : Byte) : (decodeBlock1 op).wellFormed = true := by
  simp only [decodeBlock1]
  split <;> rfl

theorem decodeBlock2_wellFormed (op : Byte) : (decodeBlock2 op).wellFormed = true := by
  simp only [decodeBlock2]
  split
  · exact aluOnR8_wellFormed _ _
  · exact aluOnHL_wellFormed _

/-- The opcodes that columns 3, 4 and 5 of block 3 leave over are the eleven of R93. -/
theorem contains_unassignedBytes_of_fields : ∀ op : Byte, 3 ≤ fieldX op →
    (fieldZ op).toNat = 3 ∧ (fieldY op).toNat ∉ [0, 1, 6, 7] ∨
      (fieldZ op).toNat = 4 ∧ (fieldY op).toNat ∉ [0, 1, 2, 3] ∨
      (fieldZ op).toNat = 5 ∧ (fieldY op).toNat ∉ [0, 1, 2, 4, 6] →
    unassignedBytes.contains op = true := by
  decide

theorem decodeBlock3_wellFormed {op : Byte} (n : Byte) (w : Word) (hx : 3 ≤ fieldX op) :
    (decodeBlock3 op n w).wellFormed = true := by
  have left := contains_unassignedBytes_of_fields op hx
  unfold decodeBlock3
  split
  case h_17 => exact decodeCB_wellFormed n
  case h_32 => exact aluOnN8_wellFormed _ n
  case h_20 => exact left (.inl ⟨‹_›, by simp_all⟩)
  case h_25 => exact left (.inr (.inl ⟨‹_›, by simp_all⟩))
  case h_31 => exact left (.inr (.inr ⟨‹_›, by simp_all⟩))
  all_goals rfl

theorem decodeBytes_wellFormed (op b1 b2 : Byte) : (decodeBytes op b1 b2).wellFormed = true := by
  unfold decodeBytes
  split
  · exact decodeBlock0_wellFormed _ _ _
  · exact decodeBlock1_wellFormed _
  · exact decodeBlock2_wellFormed _
  · exact decodeBlock3_wellFormed _ _ (Nat.two_lt_of_ne ‹_› ‹_› ‹_›)

theorem State.fetch_wellFormed (s : State) : s.fetch.1.wellFormed = true := by
  simp only [State.fetch]
  split <;> exact decodeBytes_wellFormed _ _ _

@[simp] theorem State.fetch_mem (s : State) : s.fetch.2.mem = s.mem := by rw [State.fetch_frame]

@[simp] theorem State.fetch_mode (s : State) : s.fetch.2.mode = s.mode := by rw [State.fetch_frame]

@[simp] theorem State.fetch_eiPending (s : State) : s.fetch.2.eiPending = s.eiPending := by
  rw [State.fetch_frame]

/-! ## One instruction -/

/-- No instruction writes both the run mode and ei_pending. -/
theorem writesEiPending_of_writesMode {i : Instr} (h : writesMode i = true) :
    writesEiPending i = false := by
  cases i with
  | halt | stop | unassigned => rfl
  | _ => cases h

/-- Only an unassigned opcode takes the running CPU to Locked, and the byte recorded is its own (R300). -/
theorem exec_locked {i : Instr} {s t : State} {op : Byte} (h : exec i s = .next t)
    (hrun : s.mode = .running) (hlocked : t.mode = .locked op) : i = .unassigned op := by
  cases hw : writesMode i with
  | false =>
    rw [(exec_effect h).mode_eq hw, hrun] at hlocked
    cases hlocked
  | true =>
    cases i with
    | halt =>
      simp only [exec, execHalt] at h
      split at h
      · cases h
      · cases h
        cases hlocked
    | stop =>
      cases h
      cases hlocked
    | unassigned b =>
      cases h
      cases hlocked
      rfl
    | _ => cases hw

/-- A well-formed instruction, run with no EI waiting, leaves the invariant. -/
theorem exec_inv {i : Instr} {s t : State} (hi : i.wellFormed = true) (hmem : s.mem.wf = true)
    (hrun : s.mode = .running) (hei : s.eiPending = false) (h : exec i s = .next t) : t.Inv where
  memory := (exec_effect h).mem_wf hmem
  pendingEI waiting := by
    cases hw : writesMode i with
    | false => rw [(exec_effect h).mode_eq hw, hrun]
    | true =>
      rw [(exec_effect h).eiPending_eq (writesEiPending_of_writesMode hw), hei] at waiting
      cases waiting
  lockedByte op hlocked := by
    cases exec_locked h hrun hlocked
    exact List.contains_iff_mem.mp hi

/-- IME is no part of the invariant. -/
theorem State.Inv.setIme {s : State} (hs : s.Inv) (b : Bool) : State.Inv { s with ime := b } :=
  ⟨hs.memory, hs.pendingEI, hs.lockedByte⟩

/-- A running CPU's invariant is that of its memory. -/
theorem State.Inv.of_running {s : State} (hmem : s.mem.wf = true) (hrun : s.mode = .running) :
    s.Inv where
  memory := hmem
  pendingEI _ := hrun
  lockedByte op hlocked := by rw [hrun] at hlocked; cases hlocked

/-- Fetch, execution and the delayed effect of EI keep the invariant (R306). -/
theorem State.runInstr_inv {s t : State} (hs : s.Inv) (hrun : s.mode = .running)
    (h : s.runInstr = .next t) : t.Inv := by
  obtain ⟨u, hu, ht⟩ := completeEI_next h
  have hinv : u.Inv :=
    exec_inv (State.fetch_wellFormed _) (by simpa using hs.memory) (by simpa using hrun) (by simp) hu
  rcases ht with rfl | ⟨rfl, _⟩
  · exact hinv
  · exact hinv.setIme true

/-! ## The step -/

/-- An interrupt entry keeps the invariant (R308). -/
theorem State.enterInterrupt_inv {s t : State} {n : Nat} (hs : s.Inv) (hrun : s.mode = .running)
    (h : s.enterInterrupt n = .next t) : t.Inv := by
  simp only [State.enterInterrupt] at h
  split at h
  · cases h
  · cases h
    exact .of_running (State.push16_wf _ _ hs.memory) (by simpa using hrun)

/-- What the platform does at a boundary keeps the invariant (R341, R348). -/
theorem State.afterArrival_inv {s : State} (hs : s.Inv) : s.afterArrival.Inv := by
  simp only [State.afterArrival]
  split
  · exact .of_running hs.memory rfl
  · exact ⟨hs.memory, hs.pendingEI, hs.lockedByte⟩

/-- The CPU's step keeps the invariant, mode by mode (R306). -/
theorem State.cpuStep_inv {s t : State} {wake : Bool} (hs : s.Inv) (h : s.cpuStep wake = .next t) :
    t.Inv := by
  simp only [State.cpuStep] at h
  split at h
  case h_1 => cases h
  case h_2 =>
    cases h
    simp only [State.stoppedStep]
    split
    · exact .of_running hs.memory rfl
    · exact hs
  case h_3 =>
    cases h
    simp only [State.haltedStep]
    split
    · exact hs
    · exact .of_running hs.memory rfl
  case h_4 hrun =>
    split at h
    · exact State.enterInterrupt_inv hs hrun h
    · exact State.runInstr_inv hs hrun h

/-- Settles O52: the platform's acts keep the invariant, and so does the CPU's step after them. -/
theorem everyStepKeepsTheInvariant : Obligations.EveryStepKeepsTheInvariant :=
  fun _ _ hs h => State.cpuStep_inv (State.afterArrival_inv hs) h

end Sys2Proof.Machine
end

section
/-!
PROOFS. N and H are read by nothing but DAA and PUSH AF (spec/10_state.md R27). An instruction that writes no
flag carries N and H along unread; one that writes flags writes both, from nothing that reads them.
-/

namespace Sys2Proof.Machine

/-! ## What does not depend on N and H -/

section Reads

variable (s : State) (n h : Bool)

@[simp] theorem State.withNH_flags : (s.withNH n h).flags = { s.flags with n := n, h := h } := rfl
@[simp] theorem State.withNH_readByte (a : Word) : (s.withNH n h).readByte a = s.readByte a := rfl
@[simp] theorem State.withNH_r8 (r : R8) : (s.withNH n h).r8 r = s.r8 r := by cases r <;> rfl
@[simp] theorem State.withNH_hl : (s.withNH n h).hl = s.hl := rfl
@[simp] theorem State.withNH_pointer (p : R16Ptr) : (s.withNH n h).pointer p = s.pointer p := by
  cases p <;> rfl
theorem State.withNH_condHolds (cc : Cond) :
    condHolds cc (s.withNH n h).flags = condHolds cc s.flags := by cases cc <;> rfl

/-- AF is the one pair that shows N and H. -/
theorem State.withNH_r16Stk {p : R16Stk} (hp : p ≠ .af) :
    (s.withNH n h).r16Stk p = s.r16Stk p := by
  cases p with
  | af => exact absurd rfl hp
  | bc | de | hl => rfl

end Reads

/-! ## Updates of the other fields carry N and H along; an update of all flags drops them -/

section Updates

variable (s : State) (n h : Bool)

@[simp] theorem State.withNH_setFlags (f : Flags) : (s.withNH n h).setFlags f = s.setFlags f := rfl

theorem State.withNH_setReg8 (r : R8) (v : Byte) :
    (s.withNH n h).setReg8 r v = (s.setReg8 r v).withNH n h := rfl
theorem State.withNH_afterRead (a : Word) :
    (s.withNH n h).afterRead a = (s.afterRead a).withNH n h := rfl

theorem State.withNH_memWrite (a : Word) (v : Byte) :
    (s.withNH n h).memWrite a v = (s.memWrite a v).withNH n h := by
  simp only [State.memWrite, State.withNH, State.kindAt]
  split
  · rfl
  · split <;> rfl

theorem State.withNH_push16 (v : Word) :
    (s.withNH n h).push16 v = (s.push16 v).withNH n h := by
  simp only [State.push16_eq, State.withNH_memWrite]
  rfl

theorem State.withNH_callTo (back target : Word) :
    (s.withNH n h).callTo back target = (s.callTo back target).withNH n h := by
  simp only [State.callTo, State.withNH_push16]
  rfl

end Updates

/-! ## Instructions -/

/-- The second answer is the first, but for N and H of its state. -/
inductive AlikeButNH : Result → Result → Prop
  | next (t : State) (n h : Bool) : AlikeButNH (.next t) (.next (t.withNH n h))
  | refused (e : Refusal) : AlikeButNH (.refused e) (.refused e)

namespace AlikeButNH

variable {s t u : State} {n h : Bool}

/-- Old N and H are lost. -/
theorem same (e : u = t) : AlikeButNH (.next t) (.next u) := e ▸ next t t.flags.n t.flags.h

/-- Old N and H are carried along. -/
theorem carried (e : u = t.withNH n h) : AlikeButNH (.next t) (.next u) := e ▸ next t n h

/-- The read-modify-write forms on the byte at HL write every flag. -/
theorem modifyHL (op : Byte → Byte × Flags) (k : Nat) :
    AlikeButNH (.next (modifyHL op k s)) (.next (modifyHL op k (s.withNH n h))) :=
  same (by simp [Machine.modifyHL, State.withNH_afterRead, State.withNH_memWrite])

/-- Those on a register do so too. -/
theorem modifyR8 (op : Byte → Byte × Flags) (r : R8) (k : Nat) :
    AlikeButNH (.next (modifyR8 op r k s)) (.next (modifyR8 op r k (s.withNH n h))) :=
  same (by simp [Machine.modifyR8, State.withNH_setReg8])

/-- RES and SET write no flag. -/
theorem changeHL (op : Byte → Byte) :
    AlikeButNH (.next (changeHL op s)) (.next (changeHL op (s.withNH n h))) :=
  carried (by
    simp only [Machine.changeHL, State.withNH_afterRead, State.withNH_memWrite, State.withNH_hl,
      State.withNH_readByte]
    rfl)

theorem changeR8 (op : Byte → Byte) (r : R8) :
    AlikeButNH (.next (changeR8 op r s)) (.next (changeR8 op r (s.withNH n h))) :=
  carried (by simp only [Machine.changeR8, State.withNH_r8, State.withNH_setReg8]; rfl)

/-- An operation on A reads C at most and writes every flag. -/
theorem aluA (op : Byte → Byte → Byte × Flags) {y y' : Byte} (hy : y' = y) (k : Nat) :
    AlikeButNH (.next (aluA op y k s)) (.next (aluA op y' k (s.withNH n h))) :=
  same (hy ▸ rfl)

/-- A store at an address, and of a byte, that N and H do not enter. -/
theorem write {a a' : Word} {v v' : Byte} (k : Nat) (ha : a' = a) (hv : v' = v) :
    AlikeButNH (.next ((s.memWrite a v).advance k))
      (.next (((s.withNH n h).memWrite a' v').advance k)) :=
  carried (by subst ha hv; simp only [State.withNH_memWrite]; rfl)

/-- A condition reads Z or C. -/
theorem ite (cc : Cond) {t u t' u' : State} (ht : AlikeButNH (.next t) (.next t'))
    (hu : AlikeButNH (.next u) (.next u')) :
    AlikeButNH (.next (if condHolds cc s.flags then t else u))
      (.next (if condHolds cc (s.withNH n h).flags then t' else u')) := by
  rw [State.withNH_condHolds]
  cases condHolds cc s.flags with
  | true => exact ht
  | false => exact hu

end AlikeButNH

section Instructions

variable (s : State) (n h : Bool)

theorem runRotateR8_alike (y : BitVec 3) (r : R8) :
    AlikeButNH (runRotateR8 y r s) (runRotateR8 y r (s.withNH n h)) := by
  simp only [runRotateR8]
  split <;> exact .modifyR8 _ _ _

theorem runRotateHL_alike (y : BitVec 3) :
    AlikeButNH (runRotateHL y s) (runRotateHL y (s.withNH n h)) := by
  simp only [runRotateHL]
  split <;> exact .modifyHL _ _

theorem runCB_alike (op2 : Byte) :
    AlikeButNH (runCB op2 s) (runCB op2 (s.withNH n h)) := by
  simp only [runCB]
  split
  · split
    · exact runRotateR8_alike s n h _ _
    · exact .same rfl
    · exact .changeR8 _ _
    · exact .changeR8 _ _
  · split
    · exact runRotateHL_alike s n h _
    · exact .same rfl
    · exact .changeHL _
    · exact .changeHL _

/-- Every instruction but DAA and PUSH AF answers alike from states that differ in N and H only. -/
theorem exec_alike {i : Instr} (hdaa : i ≠ .daa) (hpush : i ≠ .pushR16 .af) :
    AlikeButNH (exec i s) (exec i (s.withNH n h)) := by
  cases i with
  | daa => exact absurd rfl hdaa
  | adcHL | addHL | andHL | orHL | sbcHL | subHL | xorHL | cpHL => exact .same rfl
  | adcN8 | addN8 | andN8 | orN8 | sbcN8 | subN8 | xorN8 | cpN8 => exact .same rfl
  | adcR8 | addR8 | andR8 | orR8 | sbcR8 | subR8 | xorR8 =>
    exact .aluA _ (State.withNH_r8 s n h _) 1
  | cpR8 | bitR8 => exact .same rfl
  | ccf | scf | cpl | rla | rlca | rra | rrca => exact .same rfl
  | incR8 | decR8 | rlR8 | rlcR8 | rrR8 | rrcR8 | slaR8 | sraR8 | srlR8 | swapR8 =>
    exact .modifyR8 _ _ _
  | incHL | decHL | rlHL | rlcHL | rrHL | rrcHL | slaHL | sraHL | srlHL | swapHL =>
    exact .modifyHL _ _
  | addHLR16 | ldHLSPE8 | addSPE8 | bitHL => exact .same rfl
  | incR16 p | decR16 p | ldR16N16 p => cases p <;> exact .next _ n h
  | resHL | setHL => exact .changeHL _
  | resR8 | setR8 => exact .changeR8 _ _
  | call | rst => exact .carried (State.withNH_callTo s n h _ _)
  | callCC cc => exact .ite cc (.carried (State.withNH_callTo s n h _ _)) (.next _ n h)
  | jpCC cc | jrCC cc | retCC cc => exact .ite cc (.next _ n h) (.next _ n h)
  | jp | jpHL | jr | ret | reti | di | ei | nop | stop | unassigned => exact .next _ n h
  | halt =>
    by_cases c : s.ime = false ∧ s.intCtl.pending ≠ none
    · rw [show exec .halt s = _ from if_pos c, show exec .halt (s.withNH n h) = _ from if_pos c]
      exact .refused _
    · rw [show exec .halt s = _ from if_neg c, show exec .halt (s.withNH n h) = _ from if_neg c]
      exact .next _ n h
  | ldCA | ldHLN8 | ldN16A | ldhE8A => exact .write _ rfl rfl
  | ldHLR8 r => exact .write _ rfl (State.withNH_r8 s n h r)
  | ldR16A p => exact .write _ (State.withNH_pointer s n h p) rfl
  | ldN16SP => exact .carried (by simp only [State.memWrite16, State.withNH_memWrite]; rfl)
  | lddHLA | ldiHLA => exact .carried (by simp only [State.withNH_memWrite]; rfl)
  | ldAR16 p => cases p <;> exact .next _ n h
  | ldAC | ldAN16 | ldhAE8 | lddAHL | ldiAHL | ldR8HL | ldR8N8 | ldR8R8 | ldSPHL => exact .next _ n h
  | popR16 p =>
    cases p with
    | af => exact .same rfl
    | bc | de | hl => exact .next _ n h
  | pushR16 p =>
    refine .carried (n := n) (h := h) ?_
    rw [State.withNH_r16Stk s n h (fun e => hpush (e ▸ rfl)), State.withNH_push16]
    rfl
  | prefixCB => exact runCB_alike _ n h _

end Instructions

/-- Settles O54, from `exec_alike`. -/
theorem onlyDaaAndPushAFReadNAndH : Obligations.OnlyDaaAndPushAFReadNAndH := by
  intro i s n h hdaa hpush
  have alike := exec_alike s n h hdaa hpush
  revert alike
  generalize exec i s = r
  generalize exec i (s.withNH n h) = q
  intro alike
  cases alike with
  | next t n h => rfl
  | refused e => rfl

end Sys2Proof.Machine
end

section
/-!
PROOFS. The register pairs and F (spec/10_state.md R22, R26).
-/

namespace Sys2Proof.Machine

/-- A byte written to F and read back has lost bits 3 to 0 (R26). -/
theorem pack_unpack : ∀ v : Byte, packFlags (unpackFlags v) = v &&& 0xF0#8 := by decide

/-- F has no bits 3 to 0 (R26). -/
theorem packFlags_low (f : Flags) : packFlags f &&& 0x0F#8 = 0 := by
  obtain ⟨z, n, h, c⟩ := f
  revert z n h c
  decide

/-- Masking bits 3 to 0 of a word masks those of its low byte. -/
theorem wordOf_and_FFF0 (v : Word) : wordOf (hiByte v) (loByte v &&& 0xF0#8) = v &&& 0xFFF0#16 :=
  calc wordOf (hiByte v) (loByte v &&& 0xF0#8)
    _ = wordOf (hiByte v &&& 0xFF#8) (loByte v &&& 0xF0#8) := by
      rw [show hiByte v &&& 0xFF#8 = hiByte v from BitVec.and_allOnes]
    _ = wordOf (hiByte v) (loByte v) &&& wordOf 0xFF#8 0xF0#8 := BitVec.and_append.symm
    _ = v &&& 0xFFF0#16 := by rw [wordOf_hi_lo]; rfl

theorem State.setAF_af (s : State) (v : Word) : (s.setAF v).af = v &&& 0xFFF0#16 := by
  rw [← wordOf_and_FFF0, ← pack_unpack]
  rfl

/-- Settles O41, from what a word of two bytes is and from the packing of F. -/
theorem pairsAreTheirHalvesAndFHasNoLowBits : Obligations.PairsAreTheirHalvesAndFHasNoLowBits :=
  fun s v => ⟨wordOf_toNat _ _, wordOf_toNat _ _, wordOf_toNat _ _, wordOf_toNat _ _,
    s.setBC_bc v, s.setDE_de v, s.setHL_hl v, s.setAF_af v, packFlags_low s.flags⟩

end Sys2Proof.Machine
end

section
/-!
PROOFS. Memory (spec/20_memory.md): what one read and one write do (R52 to R54), two bytes and the stack
(R55 to R57), what an instruction that stores nothing leaves (R51, R60), and what every step keeps of the bus
and of the history (R52 to R54, R63).
-/

namespace Sys2Proof.Machine

/-! ## One byte (R52 to R54) -/

/-- A store to ROM, DEVICE or OPEN is only recorded (R52, R54). -/
theorem State.memWrite_notRam {s : State} {a : Word} (v : Byte) (k : s.kindAt a ≠ .ram)
    (r : s.intCtl.register a = none) :
    s.memWrite a v = { s with history := .write a v :: s.history } := by
  rw [State.memWrite_eq, State.memWrite_mem v fun p => k p.1, State.memWrite_intCtl s a v r]

/-- A read of plain RAM gives the byte the address holds. -/
theorem State.readByte_eq_byteAt {s : State} {a : Word} (p : s.plainRam a) :
    s.readByte a = s.byteAt a := by
  rw [State.readByte_plain p.2 (.inl p.1), State.byteAt_plain p.2]

/-- Settles O39: what a read answers where the controller has no register, by the kind of the address. -/
theorem readsAnswerByTheKindOfAddress : Obligations.ReadsAnswerByTheKindOfAddress :=
  fun _ _ => ⟨fun r => ⟨State.readByte_plain r, State.readByte_draw r⟩, rfl⟩

/-- Settles O40: what a store is (`State.memWrite_storesByte`), and what it leaves alone. -/
theorem writesActByTheKindOfAddress : Obligations.WritesActByTheKindOfAddress := by
  intro s a v
  have stores := s.memWrite_storesByte a v
  refine ⟨stores.history, stores.other, fun w p => ?_, State.memWrite_notRam v, s.memWrite_eq a v⟩
  have readsBack := State.readByte_eq_byteAt ((s.memWrite_plainRam a a v).2 p)
  rw [readsBack, stores.plain w p]

/-! ## Two bytes and the stack (R55 to R57) -/

/-- The word of two bytes written side by side has them as its halves (R22). -/
theorem halves_of_eq_append {v : Word} {hi lo : Byte} (h : v = hi ++ lo) :
    hiByte v = hi ∧ loByte v = lo := by
  subst h
  exact ⟨hiByte_wordOf hi lo, loByte_wordOf hi lo⟩

/-- Settles O25, from the two stores of `State.memWrite16`. -/
theorem storeOfSPWritesLowByteFirst : Obligations.StoreOfSPWritesLowByteFirst := by
  intro s n hi lo hsp
  obtain ⟨rfl, rfl⟩ := halves_of_eq_append hsp
  refine ⟨_, rfl, (s.memWrite16_stores n s.sp).into rfl rfl rfl, ?_⟩
  apply State.eq_of_storesPc <;> simp

/-- A push leaves all but memory, SP and the pc, which the instruction advances, alone (R233). -/
theorem ChangesMemoryAndPc.push16 (s : State) (v : Word) (n : Nat) :
    ChangesMemoryAndPc { s with sp := s.sp - 2 } ((s.push16 v).advance n)
      (s.pc + BitVec.ofNat 16 n) := by
  unfold ChangesMemoryAndPc State.advance
  rw [State.push16_frame]

/-- Settles O26, from the two stores of `State.push16`. -/
theorem pushStoresHighByteThenLowByte : Obligations.PushStoresHighByteThenLowByte := by
  intro s p hi lo hp
  obtain ⟨rfl, rfl⟩ := halves_of_eq_append hp
  exact ⟨_, rfl, (s.push16_stores (s.r16Stk p)).into rfl rfl rfl, .push16 s (s.r16Stk p) 1⟩

/-- Settles O27: a pop takes both halves of the pair from the word it has put together. -/
theorem popLoadsLowHalfThenHighHalf : Obligations.PopLoadsLowHalfThenHighHalf := by
  intro s
  have pops (p : R16Stk) : exec (.popR16 p) s =
      .next ((s.afterPop.setReg16Stk p s.popValue).advance 1) := rfl
  have hhi : hiByte s.popValue = (s.afterRead s.sp).readByte (s.sp + 1) := hiByte_wordOf _ _
  have hlo : loByte s.popValue = s.readByte s.sp := loByte_wordOf _ _
  simp only [pops, State.setReg16Stk, State.setBC, State.setDE, State.setHL, State.setAF, hhi, hlo]
  exact ⟨rfl, rfl, rfl, rfl⟩

/-- A pop from plain RAM gives the two bytes the stack holds, the low one at SP (R57). -/
theorem State.popValue_plain {s : State} (hlo : s.plainRam s.sp) (hhi : s.plainRam (s.sp + 1)) :
    s.popValue = wordOf (s.byteAt (s.sp + 1)) (s.byteAt s.sp) := by
  have hread : (s.afterRead s.sp).readByte (s.sp + 1) = s.byteAt (s.sp + 1) :=
    State.readByte_eq_byteAt (s := s.afterRead s.sp) hhi
  rw [State.popValue, hread, State.readByte_eq_byteAt hlo]

/-- Plain RAM is plain RAM after a push. -/
theorem State.push16_plainRam (s : State) (v x : Word) : (s.push16 v).plainRam x ↔ s.plainRam x := by
  rw [State.push16_eq]
  exact (State.memWrite_plainRam _ _ x _).trans (State.memWrite_plainRam s _ x _)

/-- What was pushed onto plain RAM is what a pop returns (R57, its last sentence). -/
theorem State.popValue_push16 {s : State} (v : Word) (w : s.mem.wf = true)
    (hhi : s.plainRam (s.sp - 1)) (hlo : s.plainRam (s.sp - 2)) : (s.push16 v).popValue = v := by
  have stores := s.push16_stores v
  have hsp : s.sp - 2 + 1 = s.sp - 1 := by bv_omega
  have pop := State.popValue_plain (s := s.push16 v)
    (by rw [s.push16_sp]; exact (s.push16_plainRam v _).2 hlo)
    (by rw [s.push16_sp, hsp]; exact (s.push16_plainRam v _).2 hhi)
  rw [State.push16_sp, hsp, stores.plainA w hhi, stores.plainB w hlo] at pop
  rw [pop, wordOf_hi_lo]

/-- A pair's value arrives whole in any pair, but for F's low bits, which only AF itself never has (R26). -/
theorem State.setReg16Stk_r16Stk {p q : R16Stk} (s t : State) (h : q = .af → p = .af) :
    (t.setReg16Stk q (s.r16Stk p)).r16Stk q = s.r16Stk p := by
  cases q with
  | bc | de | hl => exact wordOf_hi_lo _
  | af =>
    obtain rfl := h rfl
    simp only [State.setReg16Stk, State.r16Stk, State.af, State.f, State.setAF, hiByte_wordOf,
      loByte_wordOf, unpack_pack]

/-- Settles O28: the word popped is the word pushed, and a pair popped into takes it. -/
theorem popAfterPushReturnsThePair : Obligations.PopAfterPushReturnsThePair := by
  intro s p q w hhi hlo haf
  have popped : ((s.push16 (s.r16Stk p)).advance 1).popValue = s.r16Stk p :=
    State.popValue_push16 _ w hhi hlo
  refine ⟨_, _, rfl, rfl, ?_, ?_⟩
  · rw [popped]
    exact State.setReg16Stk_r16Stk s _ haf
  · simp

/-! ## Instructions that store nothing (R51, R60) -/

namespace Effect

variable {w : Writes} {s t : State}

theorem mem_eq (e : Effect w s t) (h : w.memory = false) : t.mem = s.mem := by
  induction e with
  | refl => rfl
  | write leave => simp [h] at leave
  | _ => assumption

theorem intCtl_eq (e : Effect w s t) (h : w.memory = false) : t.intCtl = s.intCtl := by
  induction e with
  | refl => rfl
  | write leave => simp [h] at leave
  | _ => assumption

/-- Without leave to write memory, what enters the history is reads. -/
theorem history_reads (e : Effect w s t) (h : w.memory = false) :
    ∃ l, t.history = l ++ s.history ∧ ∀ x ∈ l, ∃ a v, x = .read a v := by
  induction e with
  | refl => exact ⟨[], rfl, by simp⟩
  | write leave => simp [h] at leave
  | read a _ ih =>
    obtain ⟨l, hl, reads⟩ := ih
    exact ⟨_ :: l, congrArg (_ :: ·) hl, List.forall_mem_cons.2 ⟨⟨a, _, rfl⟩, reads⟩⟩
  | _ => assumption

end Effect

/-- Settles O56: an effect without leave to write memory keeps memory and the controller, and reads at most. -/
theorem onlyTheStoringInstructionsWriteMemory : Obligations.OnlyTheStoringInstructionsWriteMemory := by
  intro i s t noLeave h
  have e := exec_effect h
  have hmem := e.mem_eq noLeave
  have hctl := e.intCtl_eq noLeave
  exact ⟨fun a => by rw [State.byteAt, State.byteAt, hmem, hctl], hmem, hctl, e.history_reads noLeave⟩

/-! ## What every step keeps of the bus (R52 to R54, R63) -/

/-- From `s` to `t` the addresses kept their kinds and the controller's registers their places, no ROM byte
changed, and the history only grew. -/
structure RespectsBus (s t : State) : Prop where
  bus : t.bus = s.bus
  register : ∀ a, t.intCtl.register a = none ↔ s.intCtl.register a = none
  rom : ∀ a, s.kindAt a = .rom → s.intCtl.register a = none → t.byteAt a = s.byteAt a
  history : s.history <:+ t.history

namespace RespectsBus

variable {s t u : State}

theorem kindAt_eq (h : RespectsBus s t) (a : Word) : t.kindAt a = s.kindAt a := by
  rw [State.kindAt, State.kindAt, h.bus]

theorem trans (hst : RespectsBus s t) (htu : RespectsBus t u) : RespectsBus s u where
  bus := htu.bus.trans hst.bus
  register a := (htu.register a).trans (hst.register a)
  rom a k r :=
    (htu.rom a ((hst.kindAt_eq a).trans k) ((hst.register a).2 r)).trans (hst.rom a k r)
  history := hst.history.trans htu.history

/-- Where no cell is written, a ROM byte is its cell before and after, whatever the controller's registers
take. -/
theorem of_mem_eq (bus : t.bus = s.bus) (mem : t.mem = s.mem)
    (register : ∀ a, t.intCtl.register a = none ↔ s.intCtl.register a = none)
    (history : s.history <:+ t.history) : RespectsBus s t where
  bus := bus
  register := register
  rom a _ r := by rw [State.byteAt_plain r, State.byteAt_plain ((register a).2 r), mem]
  history := history

/-- An update of the CPU's own items: nothing that lies on the bus. -/
theorem of_eq (bus : t.bus = s.bus) (mem : t.mem = s.mem) (intCtl : t.intCtl = s.intCtl)
    (history : t.history = s.history) : RespectsBus s t :=
  of_mem_eq bus mem (fun _ => by rw [intCtl]) (history ▸ List.suffix_rfl)

theorem afterRead (s : State) (a : Word) : RespectsBus s (s.afterRead a) :=
  of_mem_eq rfl rfl (fun _ => .rfl) (List.suffix_cons _ _)

/-- A store reaches no ROM byte: at its own address ROM takes nothing, and no other address changes (R52). -/
theorem memWrite (s : State) (a : Word) (v : Byte) : RespectsBus s (s.memWrite a v) where
  bus := s.memWrite_bus a v
  register x := s.memWrite_register_none a x v
  rom x k r := by
    by_cases hx : x = a
    · subst hx
      exact State.memWrite_byteAt_notRam v (by simp [k]) r
    · exact s.memWrite_byteAt_other v hx
  history := s.memWrite_history a v ▸ List.suffix_cons _ _

theorem push16 (s : State) (v : Word) : RespectsBus s (s.push16 v) := by
  rw [State.push16_eq]
  exact (memWrite s _ _).trans ((memWrite _ _ _).trans (of_eq rfl rfl rfl rfl))

end RespectsBus

/-- An instruction touches the bus by reads and stores only. -/
theorem Effect.respectsBus {w : Writes} {s t : State} (e : Effect w s t) : RespectsBus s t := by
  induction e with
  | refl => exact .of_eq rfl rfl rfl rfl
  | read a _ ih => exact ih.trans (.afterRead _ a)
  | write _ a v _ ih => exact ih.trans (.memWrite _ a v)
  | regs _ _ ih | jump _ _ ih => exact ih.trans (.of_eq rfl rfl rfl rfl)
  | flags _ _ _ ih | sp _ _ _ ih | ime _ _ _ ih | eiPending _ _ _ ih | mode _ _ _ ih =>
    exact ih.trans (.of_eq rfl rfl rfl rfl)

theorem State.fetch_respectsBus (s : State) : RespectsBus s s.fetch.2 := by
  have hop := RespectsBus.afterRead s s.pc
  simp only [State.fetch]
  split
  · exact hop
  · exact hop.trans (.afterRead _ _)
  · exact (hop.trans (.afterRead _ _)).trans (.afterRead _ _)

/-- Fetch, execution and the delayed effect of EI respect the bus (R306). -/
theorem State.runInstr_respectsBus {s t : State} (h : s.runInstr = .next t) : RespectsBus s t := by
  obtain ⟨u, hu, ht⟩ := completeEI_next h
  have cleared : RespectsBus s { s with eiPending := false } := .of_eq rfl rfl rfl rfl
  have fetched := cleared.trans (State.fetch_respectsBus { s with eiPending := false })
  have executed := fetched.trans (exec_effect hu).respectsBus
  rcases ht with rfl | ⟨rfl, _⟩
  · exact executed
  · exact executed.trans (.of_eq rfl rfl rfl rfl)

/-- An interrupt entry acknowledges and pushes, and stores nothing else (R308). -/
theorem State.enterInterrupt_respectsBus {s t : State} {n : Nat} (h : s.enterInterrupt n = .next t) :
    RespectsBus s t := by
  simp only [State.enterInterrupt] at h
  split at h
  · cases h
  · cases h
    have acknowledged : RespectsBus s
        { s with ime := false, eiPending := false, intCtl := s.intCtl.acknowledge n } :=
      .of_mem_eq rfl rfl (IntCtl.acknowledge_register s.intCtl n) List.suffix_rfl
    exact (acknowledged.trans (.push16 _ s.pc)).trans (.of_eq rfl rfl rfl rfl)

/-- What the platform does at a boundary, a reset too, reaches the controller's registers alone (R344, R348). -/
theorem State.afterArrival_respectsBus (s : State) : RespectsBus s s.afterArrival := by
  obtain ⟨hmem, hbus, hhistory, _⟩ := s.afterArrival_frame
  exact .of_mem_eq hbus hmem s.afterArrival_register (hhistory ▸ List.suffix_rfl)

/-- The CPU's step respects the bus, mode by mode (R306). -/
theorem State.cpuStep_respectsBus {s t : State} {wake : Bool} (h : s.cpuStep wake = .next t) :
    RespectsBus s t := by
  simp only [State.cpuStep] at h
  split at h
  case h_1 => cases h
  case h_2 =>
    cases h
    simp only [State.stoppedStep]
    split <;> exact .of_eq rfl rfl rfl rfl
  case h_3 =>
    cases h
    simp only [State.haltedStep]
    split <;> exact .of_eq rfl rfl rfl rfl
  case h_4 =>
    split at h
    · exact State.enterInterrupt_respectsBus h
    · exact State.runInstr_respectsBus h

/-- Every step of the machine respects the bus, from any state. -/
theorem step_respectsBus {s t : State} (h : step s = .next t) : RespectsBus s t :=
  s.afterArrival_respectsBus.trans (State.cpuStep_respectsBus h)

/-- Settles O58: the bus and its ROM bytes are among what `step_respectsBus` keeps. -/
theorem noStepChangesRom : Obligations.NoStepChangesRom :=
  fun _ _ h => ⟨(step_respectsBus h).bus, (step_respectsBus h).rom⟩

/-- Settles O59: the old history is the tail of the new one. -/
theorem everyStepOnlyAddsToTheHistory : Obligations.EveryStepOnlyAddsToTheHistory := by
  intro s t h
  obtain ⟨l, hl⟩ := (step_respectsBus h).history
  exact ⟨l, hl.symm⟩

end Sys2Proof.Machine
end

section
/-!
SUPPORT and PROOFS. The fields of an opcode byte and the operand tables (spec/30_encoding.md R82 to R85), and the
decoder on a list of bytes (R80, R95), each said once for the two round trips.
-/

namespace Sys2Proof.Machine

/-! ## The operand tables and their codes (R83 to R85) -/

theorem r8OfField_fieldOfR8 (r : R8) : r8OfField (fieldOfR8 r) = some r := by cases r <;> rfl

theorem fieldOfR8_of_some {f : BitVec 3} {r : R8} (h : r8OfField f = some r) : fieldOfR8 r = f := by
  revert f
  cases r <;> decide

/-- The one code that is not a register is that of the byte at HL (R83). -/
theorem r8OfField_eq_none_iff : ∀ f : BitVec 3, r8OfField f = none ↔ f = 0b110#3 := by decide

theorem fieldOfR16_r16OfField : ∀ f : BitVec 2, fieldOfR16 (r16OfField f) = f := by decide

theorem fieldOfR16Stk_r16StkOfField : ∀ f : BitVec 2, fieldOfR16Stk (r16StkOfField f) = f := by decide

theorem fieldOfCond_condOfField : ∀ f : BitVec 2, fieldOfCond (condOfField f) = f := by decide

/-! ## The fields read from a byte written field by field (R82) -/

theorem fieldX_append : ∀ (x : BitVec 2) (y z : BitVec 3), fieldX (x ++ y ++ z) = x.toNat := by decide

theorem fieldY_append : ∀ (x : BitVec 2) (y z : BitVec 3), fieldY (x ++ y ++ z) = y := by decide

theorem fieldZ_append : ∀ (x : BitVec 2) (y z : BitVec 3), fieldZ (x ++ y ++ z) = z := by decide

/-! ## A byte written from its fields, in the spellings of the Encoding lines -/

section Fields

variable {op : Byte} {x y z : Nat}

theorem opcode_eq_of_fields (hx : fieldX op = x) (hy : (fieldY op).toNat = y)
    (hz : (fieldZ op).toNat = z) : op = BitVec.ofNat 8 (64 * x + 8 * y + z) := by
  subst hx hy hz
  revert op
  decide

theorem append_fieldY_fieldZ (hx : fieldX op = x) : BitVec.ofNat 2 x ++ fieldY op ++ fieldZ op = op := by
  subst hx
  revert op
  decide

theorem append_fieldY (hx : fieldX op = x) (hz : (fieldZ op).toNat = z) :
    BitVec.ofNat 2 x ++ fieldY op ++ BitVec.ofNat 3 z = op := by
  subst hz
  rw [BitVec.ofNat_toNat, BitVec.setWidth_eq, append_fieldY_fieldZ hx]

/-- Bits 3:0 of an opcode with a field p are q above z. -/
theorem append_fieldP {m : Nat} (hx : fieldX op = x) (hz : (fieldZ op).toNat = z)
    (hm : m = 8 * (fieldQ op).toNat + z) : BitVec.ofNat 2 x ++ fieldP op ++ BitVec.ofNat 4 m = op := by
  subst hx hz hm
  revert op
  decide

/-- Bits 7:5 of an opcode with a field c are x above the top bit of y. -/
theorem append_fieldC {k : Nat} (hx : fieldX op = x) (hz : (fieldZ op).toNat = z)
    (hk : k = 2 * x + (fieldY op).toNat / 4) :
    BitVec.ofNat 3 k ++ fieldC op ++ BitVec.ofNat 3 z = op := by
  subst hx hz hk
  revert op
  decide

theorem fieldQ_eq_odd : ∀ op : Byte, fieldQ op = decide ((fieldY op).toNat % 2 = 1) := by decide

theorem fieldX_eq_three (h0 : fieldX op ≠ 0) (h1 : fieldX op ≠ 1) (h2 : fieldX op ≠ 2) :
    fieldX op = 3 := by
  have : fieldX op < 4 := BitVec.isLt _
  omega

end Fields

/-! ## The decoder on a list of bytes (R80, R95) -/

theorem lengthOf_cases : ∀ op : Byte, lengthOf op = 1 ∨ lengthOf op = 2 ∨ lengthOf op = 3 := by decide

/-- The three ways in which a list of bytes holds an instruction and the bytes after it. -/
inductive DecodesTo : List Byte → Instr → List Byte → Prop
  | one {op : Byte} {rest : List Byte} (h : lengthOf op = 1) :
      DecodesTo (op :: rest) (decodeBytes op 0 0) rest
  | two {op b1 : Byte} {rest : List Byte} (h : lengthOf op = 2) :
      DecodesTo (op :: b1 :: rest) (decodeBytes op b1 0) rest
  | three {op b1 b2 : Byte} {rest : List Byte} (h : lengthOf op = 3) :
      DecodesTo (op :: b1 :: b2 :: rest) (decodeBytes op b1 b2) rest

theorem decode_eq_ok_iff {bytes : List Byte} {i : Instr} {rest : List Byte} :
    decode bytes = .ok (i, rest) ↔ DecodesTo bytes i rest := by
  constructor
  · intro h
    unfold decode at h
    split at h
    · cases h
    · split at h <;> cases h
      · exact .one ‹_›
      · exact .two ‹_›
      · exact .three ‹_›
  · intro h
    cases h <;> simp [decode, *]

/-- The bytes taken are as many as the first byte asks for. -/
theorem DecodesTo.length_eq {op : Byte} {bytes : List Byte} {i : Instr} {rest : List Byte}
    (h : DecodesTo (op :: bytes) i rest) : bytes.length + 1 = lengthOf op + rest.length := by
  cases h with
  | one hlen => omega
  | two hlen => rw [List.length_cons]; omega
  | three hlen => rw [List.length_cons, List.length_cons]; omega

/-- Enough bytes hold an instruction. -/
theorem exists_decodesTo {op : Byte} {bytes : List Byte} (h : lengthOf op ≤ bytes.length + 1) :
    ∃ i rest, DecodesTo (op :: bytes) i rest := by
  rcases lengthOf_cases op with hlen | hlen | hlen
  · exact ⟨_, _, .one hlen⟩
  · match bytes with
    | [] => simp [hlen] at h
    | _ :: _ => exact ⟨_, _, .two hlen⟩
  · match bytes with
    | [] | [_] => simp [hlen] at h
    | _ :: _ :: _ => exact ⟨_, _, .three hlen⟩

/-- Settles O3. -/
theorem decodeNeedsExactlyTheLength : Obligations.DecodeNeedsExactlyTheLength := by
  refine ⟨fun op bytes => ⟨?_, fun h => ?_⟩, rfl, fun op => ?_⟩
  · rintro ⟨⟨i, rest⟩, h⟩
    have := (decode_eq_ok_iff.1 h).length_eq
    omega
  · obtain ⟨i, rest, hdec⟩ := exists_decodesTo h
    exact ⟨(i, rest), decode_eq_ok_iff.2 hdec⟩
  · have := lengthOf_cases op
    omega

end Sys2Proof.Machine
end

section
/-!
PROOFS. Decoding what the encoder wrote (spec/30_encoding.md R82 to R93, R95).
-/

namespace Sys2Proof.Machine

/-- An opcode with an immediate word, which stands low byte first (R86). -/
theorem decode_withWord {op : Byte} {f : Word → Instr} (hlen : lengthOf op = 3)
    (hop : ∀ b1 b2, decodeBytes op b1 b2 = f (wordOf b2 b1)) (n : Word) (rest : List Byte) :
    decode (withWord op n ++ rest) = .ok (f n, rest) := by
  have h := decode_eq_ok_iff.2 (.three (b1 := loByte n) (b2 := hiByte n) (rest := rest) hlen)
  rwa [hop, wordOf_hi_lo] at h

theorem decode_withCB (op2 : Byte) (rest : List Byte) :
    decode (withCB op2 ++ rest) = .ok (decodeCB op2, rest) := rfl

theorem decode_unassigned {b : Byte} (rest : List Byte) (hb : b ∈ unassignedBytes) :
    decode (b :: rest) = .ok (.unassigned b, rest) := by
  have hdecode : ∀ b ∈ unassignedBytes, lengthOf b = 1 ∧ decodeBytes b 0 0 = .unassigned b := by decide
  obtain ⟨hlen, hbytes⟩ := hdecode b hb
  exact hbytes ▸ decode_eq_ok_iff.2 (.one hlen)

/-- By the operands: once those that stand in the opcode are given, its bits are closed and the decoder's
answer evaluates; the field b of BIT, RES and SET, the field t of RST and an immediate are read back as
they are. -/
theorem decode_encode (i : Instr) (rest : List Byte) (hi : i.wellFormed = true) :
    decode (encode i ++ rest) = .ok (i, rest) := by
  cases i with
  | prefixCB => cases hi
  | unassigned b => exact decode_unassigned rest (List.contains_iff_mem.mp hi)
  | adcR8 r | addR8 r | andR8 r | cpR8 r | orR8 r | sbcR8 r | subR8 r | xorR8 r | decR8 r | incR8 r
  | ldHLR8 r | ldR8HL r | ldR8N8 r | rlR8 r | rlcR8 r | rrR8 r | rrcR8 r | slaR8 r | sraR8 r | srlR8 r
  | swapR8 r => cases r <;> rfl
  | ldR8R8 r q => cases r <;> cases q <;> rfl
  | addHLR16 p | decR16 p | incR16 p | ldR16A p | ldAR16 p | popR16 p | pushR16 p => cases p <;> rfl
  | jrCC cc | retCC cc => cases cc <;> rfl
  | bitR8 k r | resR8 k r | setR8 k r =>
    rw [encode, decode_withCB]
    simp [decodeCB, fieldX_append, fieldY_append, fieldZ_append, r8OfField_fieldOfR8]
  | bitHL k | resHL k | setHL k =>
    rw [encode, decode_withCB]
    simp [decodeCB, fieldX_append, fieldY_append, fieldZ_append, (r8OfField_eq_none_iff _).2]
  | rst t =>
    have hlen : ∀ t : BitVec 3, lengthOf (0b11#2 ++ t ++ 0b111#3) = 1 := by decide
    have hbytes : ∀ t : BitVec 3, decodeBytes (0b11#2 ++ t ++ 0b111#3) 0 0 = .rst t := by decide
    have h := decode_eq_ok_iff.2 (.one (rest := rest) (hlen t))
    rwa [hbytes] at h
  | callCC cc n | jpCC cc n => cases cc <;> exact decode_withWord rfl (fun _ _ => rfl) n rest
  | ldR16N16 p n => cases p <;> exact decode_withWord rfl (fun _ _ => rfl) n rest
  | call n | jp n | ldN16A n | ldN16SP n | ldAN16 n => exact decode_withWord rfl (fun _ _ => rfl) n rest
  | _ => rfl

/-- Settles O1. -/
theorem decodeReadsBackEveryEncoding : Obligations.DecodeReadsBackEveryEncoding := decode_encode

/-- Settles O5: each word is the encoding of its instruction. -/
theorem sampleWordsDecode : Obligations.SampleWordsDecode :=
  ⟨decode_encode .adcHL [] rfl, decode_encode (.addHLR16 .de) [] rfl,
    decode_encode (.bitR8 4 .l) [] rfl, decode_encode (.call 0x1234#16) [] rfl,
    decode_encode .halt [] rfl, decode_encode (.ldN16SP 0xC100#16) [] rfl,
    decode_encode .swapHL [] rfl, decode_encode (.unassigned 0xDD#8) [] rfl⟩

end Sys2Proof.Machine
end

section
/-!
PROOFS. Encoding what the decoder answered (spec/30_encoding.md R88 to R93, R95): the instruction's bytes
are those it was decoded from, block by block of the opcode map.
-/

namespace Sys2Proof.Machine

/-! ## The numbered operations of a column -/

theorem encode_aluOnR8 (y : BitVec 3) (r : R8) : encode (aluOnR8 y r) = [0b10#2 ++ y ++ fieldOfR8 r] := by
  revert y
  cases r <;> decide

theorem encode_aluOnHL : ∀ y : BitVec 3, encode (aluOnHL y) = [0b10#2 ++ y ++ 0b110#3] := by decide

theorem encode_aluOnN8 (y : BitVec 3) (n : Byte) : encode (aluOnN8 y n) = [0b11#2 ++ y ++ 0b110#3, n] := by
  have hy : y ∈ [0#3, 1#3, 2#3, 3#3, 4#3, 5#3, 6#3, 7#3] := by revert y; decide
  fin_cases hy <;> rfl

theorem encode_rotateOnR8 (y : BitVec 3) (r : R8) :
    encode (rotateOnR8 y r) = withCB (0b00#2 ++ y ++ fieldOfR8 r) := by
  revert y
  cases r <;> decide

theorem encode_rotateOnHL : ∀ y : BitVec 3, encode (rotateOnHL y) = withCB (0b00#2 ++ y ++ 0b110#3) := by
  decide

theorem encode_decodeColumn2 : ∀ op : Byte,
    encode (decodeColumn2 op) = [0b00#2 ++ fieldY op ++ 0b010#3] := by decide

theorem encode_decodeColumn7 : ∀ op : Byte,
    encode (decodeColumn7 op) = [0b00#2 ++ fieldY op ++ 0b111#3] := by decide

/-! ## The map behind CBh (R92) -/

theorem encode_decodeCB (op2 : Byte) : encode (decodeCB op2) = withCB op2 := by
  unfold decodeCB
  split
  next r hr =>
    have hz := fieldOfR8_of_some hr
    split
    case h_1 hx => rw [encode_rotateOnR8, hz, append_fieldY_fieldZ hx]
    case h_2 hx => rw [encode, hz, append_fieldY_fieldZ hx]
    case h_3 hx => rw [encode, hz, append_fieldY_fieldZ hx]
    case h_4 h0 h1 h2 => rw [encode, hz, append_fieldY_fieldZ (fieldX_eq_three h0 h1 h2)]
  next hr =>
    have hz := (r8OfField_eq_none_iff _).1 hr
    split
    case h_1 hx => rw [encode_rotateOnHL, ← hz, append_fieldY_fieldZ hx]
    case h_2 hx => rw [encode, ← hz, append_fieldY_fieldZ hx]
    case h_3 hx => rw [encode, ← hz, append_fieldY_fieldZ hx]
    case h_4 h0 h1 h2 => rw [encode, ← hz, append_fieldY_fieldZ (fieldX_eq_three h0 h1 h2)]

/-! ## The four blocks (R88 to R91) -/

section Blocks

variable {op : Byte} (w : Word)

theorem isPrefix_withWord {i : Instr} (h : encode i = [op]) : encode i <+: withWord op w := by
  rw [h]
  exact ⟨_, rfl⟩

theorem encode_decodeColumn0 (hx : fieldX op = 0) (hz : (fieldZ op).toNat = 0) (hstop : op ≠ 0x10#8) :
    encode (decodeColumn0 op (loByte w) w) <+: withWord op w := by
  unfold decodeColumn0
  split
  case h_3 hy => exact absurd (opcode_eq_of_fields hx hy hz) hstop
  case h_5 =>
    have hop : 0b001#3 ++ fieldC op ++ 0b000#3 = op :=
      append_fieldC hx hz (by have := (fieldY op).isLt; grind)
    rw [encode, fieldOfCond_condOfField, hop]
    exact ⟨_, rfl⟩
  all_goals
    cases opcode_eq_of_fields hx ‹_› hz
    exact ⟨_, rfl⟩

theorem encode_decodeBlock0 (hx : fieldX op = 0) (hstop : op ≠ 0x10#8) :
    encode (decodeBlock0 op (loByte w) w) <+: withWord op w := by
  unfold decodeBlock0
  split
  case h_1 hz => exact encode_decodeColumn0 w hx hz hstop
  case h_2 hz =>
    split
    next hq =>
      have hop : 0b00#2 ++ fieldP op ++ 0b1001#4 = op := append_fieldP hx hz (by simp [hq])
      exact isPrefix_withWord w (by rw [encode, fieldOfR16_r16OfField, hop])
    next hq =>
      have hop : 0b00#2 ++ fieldP op ++ 0b0001#4 = op := append_fieldP hx hz (by simp [hq])
      rw [encode, fieldOfR16_r16OfField, hop]
  case h_3 hz => exact isPrefix_withWord w (by rw [encode_decodeColumn2, append_fieldY hx hz])
  case h_4 hz =>
    split
    next hq =>
      have hop : 0b00#2 ++ fieldP op ++ 0b1011#4 = op := append_fieldP hx hz (by simp [hq])
      exact isPrefix_withWord w (by rw [encode, fieldOfR16_r16OfField, hop])
    next hq =>
      have hop : 0b00#2 ++ fieldP op ++ 0b0011#4 = op := append_fieldP hx hz (by simp [hq])
      exact isPrefix_withWord w (by rw [encode, fieldOfR16_r16OfField, hop])
  case h_5 hz | h_6 hz | h_7 hz =>
    split
    next r hr =>
      rw [encode, fieldOfR8_of_some hr, append_fieldY hx hz]
      exact ⟨_, rfl⟩
    next hr =>
      cases opcode_eq_of_fields hx (congrArg BitVec.toNat ((r8OfField_eq_none_iff _).1 hr)) hz
      exact ⟨_, rfl⟩
  case h_8 =>
    have hz : (fieldZ op).toNat = 7 := by have := (fieldZ op).isLt; grind
    exact isPrefix_withWord w (by rw [encode_decodeColumn7, append_fieldY hx hz])

theorem encode_decodeBlock1 (hx : fieldX op = 1) : encode (decodeBlock1 op) = [op] := by
  unfold decodeBlock1
  split
  case h_1 r q hr hq =>
    rw [encode, fieldOfR8_of_some hr, fieldOfR8_of_some hq, append_fieldY_fieldZ hx]
  case h_2 r hr hq =>
    rw [encode, fieldOfR8_of_some hr, ← (r8OfField_eq_none_iff _).1 hq, append_fieldY_fieldZ hx]
  case h_3 q hr hq =>
    have hop := append_fieldY_fieldZ hx
    rw [(r8OfField_eq_none_iff _).1 hr, ← fieldOfR8_of_some hq] at hop
    rw [← hop]
    cases q <;> rfl
  case h_4 hr hq =>
    have hop := append_fieldY_fieldZ hx
    rw [(r8OfField_eq_none_iff _).1 hr, (r8OfField_eq_none_iff _).1 hq] at hop
    rw [← hop]
    rfl

theorem encode_decodeBlock2 (hx : fieldX op = 2) : encode (decodeBlock2 op) = [op] := by
  unfold decodeBlock2
  split
  case h_1 r hr => rw [encode_aluOnR8, fieldOfR8_of_some hr, append_fieldY_fieldZ hx]
  case h_2 hr => rw [encode_aluOnHL, ← (r8OfField_eq_none_iff _).1 hr, append_fieldY_fieldZ hx]

/-- An instruction without an operand field in its opcode stands at one place of the map, which its column
and row give; the others are put together from their fields. -/
theorem encode_decodeBlock3 (hx : fieldX op = 3) :
    encode (decodeBlock3 op (loByte w) w) <+: withWord op w := by
  have hy8 := (fieldY op).isLt
  unfold decodeBlock3
  split
  case h_5 hz _ _ _ _ =>
    have hop : 0b110#3 ++ fieldC op ++ 0b000#3 = op := append_fieldC hx hz (by grind)
    exact isPrefix_withWord w (by rw [encode, fieldOfCond_condOfField, hop])
  case h_10 hz _ _ _ _ =>
    have hq : fieldQ op = false := by rw [fieldQ_eq_odd]; grind
    have hop : 0b11#2 ++ fieldP op ++ 0b0001#4 = op := append_fieldP hx hz (by simp [hq])
    exact isPrefix_withWord w (by rw [encode, fieldOfR16Stk_r16StkOfField, hop])
  case h_15 hz _ _ _ _ =>
    have hop : 0b110#3 ++ fieldC op ++ 0b010#3 = op := append_fieldC hx hz (by grind)
    rw [encode, fieldOfCond_condOfField, hop]
  case h_17 hz hy =>
    cases opcode_eq_of_fields hx hy hz
    rw [encode_decodeCB]
    exact ⟨_, rfl⟩
  case h_20 | h_25 | h_31 => exact isPrefix_withWord w rfl
  case h_32 hz =>
    rw [encode_aluOnN8, append_fieldY hx hz]
    exact ⟨_, rfl⟩
  case h_33 =>
    have hz : (fieldZ op).toNat = 7 := by have := (fieldZ op).isLt; grind
    exact isPrefix_withWord w (by rw [encode, append_fieldY hx hz])
  all_goals
    rename_i hz hy
    cases opcode_eq_of_fields hx hy hz
    exact ⟨_, rfl⟩

end Blocks

/-! ## All bytes -/

/-- Any bytes but STOP's begin with the encoding of the instruction they decode to. -/
theorem encode_decodeBytes_isPrefix {op : Byte} (b1 b2 : Byte) (hstop : op ≠ 0x10#8) :
    encode (decodeBytes op b1 b2) <+: [op, b1, b2] := by
  obtain ⟨w, rfl, rfl⟩ : ∃ w, b1 = loByte w ∧ b2 = hiByte w := ⟨wordOf b2 b1, by simp, by simp⟩
  change _ <+: withWord op w
  unfold decodeBytes
  rw [wordOf_hi_lo]
  split
  case h_1 hx => exact encode_decodeBlock0 w hx hstop
  case h_2 hx => exact isPrefix_withWord w (encode_decodeBlock1 hx)
  case h_3 hx => exact isPrefix_withWord w (encode_decodeBlock2 hx)
  case h_4 h0 h1 h2 => exact encode_decodeBlock3 w (fieldX_eq_three h0 h1 h2)

theorem encode_length (i : Instr) : (encode i).length = instrLength i := by cases i <;> rfl

/-- An encoding is as long as the first of the bytes that begin with it asks for, since the decoder reads
it back from them. -/
theorem encode_length_of_isPrefix {i : Instr} {op : Byte} {bytes : List Byte} (hi : i.wellFormed = true)
    (h : encode i <+: op :: bytes) : (encode i).length = lengthOf op := by
  obtain ⟨rest, hrest⟩ := h
  have hdec := decode_eq_ok_iff.1 (decode_encode i rest hi)
  rw [hrest] at hdec
  have hlen := congrArg List.length hrest
  rw [List.length_append, List.length_cons, hdec.length_eq] at hlen
  omega

/-- Any bytes but STOP's: the encoding is as many of them as the first asks for. -/
theorem encode_decodeBytes {op : Byte} (b1 b2 : Byte) (hstop : op ≠ 0x10#8) :
    encode (decodeBytes op b1 b2) = [op, b1, b2].take (lengthOf op) := by
  have hprefix := encode_decodeBytes_isPrefix b1 b2 hstop
  rw [← encode_length_of_isPrefix (decodeBytes_wellFormed op b1 b2) hprefix]
  exact List.prefix_iff_eq_take.1 hprefix

theorem instrLength_decodeBytes (op b1 b2 : Byte) :
    instrLength (decodeBytes op b1 b2) = lengthOf op := by
  by_cases hstop : op = 0x10#8
  · subst hstop
    rfl
  · rw [← encode_length]
    exact encode_length_of_isPrefix (decodeBytes_wellFormed op b1 b2)
      (encode_decodeBytes_isPrefix b1 b2 hstop)

theorem decodeBytes_stop (b1 b2 : Byte) : decodeBytes 0x10#8 b1 b2 = .stop := rfl

/-- Settles O2. -/
theorem decodedBytesAreTheEncoding : Obligations.DecodedBytesAreTheEncoding :=
  fun op b1 b2 =>
    ⟨decodeBytes_wellFormed op b1 b2, instrLength_decodeBytes op b1 b2,
      fun h => h ▸ decodeBytes_stop b1 b2, encode_decodeBytes b1 b2⟩

/-! ## The unassigned opcodes (R93) -/

theorem decodeBytes_of_unassigned {op : Byte} (b1 b2 : Byte) (h : op ∈ unassignedBytes) :
    decodeBytes op b1 b2 = .unassigned op := by
  unfold unassignedBytes at h
  fin_cases h <;> rfl

/-- An unassigned opcode carries the byte it was decoded from. -/
theorem eq_of_decodeBytes_unassigned {op b1 b2 b : Byte} (h : decodeBytes op b1 b2 = .unassigned b) :
    b = op := by
  have hstop : op ≠ 0x10#8 := by
    rintro rfl
    cases h
  have hprefix := encode_decodeBytes_isPrefix b1 b2 hstop
  rw [h] at hprefix
  exact (List.cons_prefix_cons.1 hprefix).1

/-- Settles O4: the decoder's answer is well-formed, and its byte is the first. -/
theorem elevenFirstBytesAreUnassigned : Obligations.ElevenFirstBytesAreUnassigned := by
  intro op b1 b2 b
  constructor
  · intro h
    obtain rfl := eq_of_decodeBytes_unassigned h
    have hwf := decodeBytes_wellFormed b b1 b2
    rw [h] at hwf
    exact ⟨rfl, List.contains_iff_mem.mp hwf⟩
  · rintro ⟨rfl, hop⟩
    exact decodeBytes_of_unassigned b1 b2 hop

end Sys2Proof.Machine
end

section
/-!
PROOFS. The byte CBh (spec/30_encoding.md R92), and the step that fetches and runs one instruction
(spec/30_encoding.md R95, spec/60_exceptions.md R306).
-/

namespace Sys2Proof.Machine

/-! ## The byte CBh (R92) -/

theorem exec_rotateOnR8 (y : BitVec 3) (r : R8) (s : State) :
    exec (rotateOnR8 y r) s = runRotateR8 y r s := by
  unfold rotateOnR8 runRotateR8
  generalize y.toNat = k
  match k with
  | 0 | 1 | 2 | 3 | 4 | 5 | 6 | _ + 7 => rfl

theorem exec_rotateOnHL (y : BitVec 3) (s : State) : exec (rotateOnHL y) s = runRotateHL y s := by
  unfold rotateOnHL runRotateHL
  generalize y.toNat = k
  match k with
  | 0 | 1 | 2 | 3 | 4 | 5 | 6 | _ + 7 => rfl

/-- The decoder's map of the second byte and the one that runs it are the same map. -/
theorem exec_decodeCB (op2 : Byte) (s : State) : exec (decodeCB op2) s = runCB op2 s := by
  unfold decodeCB runCB
  generalize fieldX op2 = x
  cases r8OfField (fieldZ op2) with
  | some r =>
    match x with
    | 0 => exact exec_rotateOnR8 _ r s
    | 1 | 2 | _ + 3 => rfl
  | none =>
    match x with
    | 0 => exact exec_rotateOnHL _ s
    | 1 | 2 | _ + 3 => rfl

theorem runRotateR8_completes (y : BitVec 3) (r : R8) (s : State) :
    ∃ t, runRotateR8 y r s = .next t := by
  unfold runRotateR8
  split <;> exact ⟨_, rfl⟩

theorem runRotateHL_completes (y : BitVec 3) (s : State) : ∃ t, runRotateHL y s = .next t := by
  unfold runRotateHL
  split <;> exact ⟨_, rfl⟩

theorem runCB_completes (op2 : Byte) (s : State) : ∃ t, runCB op2 s = .next t := by
  unfold runCB
  split
  · split
    case h_1 => exact runRotateR8_completes _ _ s
    all_goals exact ⟨_, rfl⟩
  · split
    case h_1 => exact runRotateHL_completes _ s
    all_goals exact ⟨_, rfl⟩

/-- Settles O37. -/
theorem cbByteRunsTheInstructionOfItsSecondByte :
    Obligations.CBByteRunsTheInstructionOfItsSecondByte := by
  intro s
  obtain ⟨t, ht⟩ := runCB_completes (s.readByte (s.pc + 1)) (s.afterRead (s.pc + 1))
  exact ⟨t, ht, (exec_decodeCB _ _).trans ht⟩

/-- The fault is the step's, in mode Locked (R300): no instruction answers it. -/
theorem exec_ne_fault (i : Instr) (s : State) (e : Fault) : exec i s ≠ .fault e := by
  cases i with
  | halt =>
    simp only [exec, execHalt]
    split <;> nofun
  | prefixCB =>
    obtain ⟨t, ht⟩ := runCB_completes (s.readByte (s.pc + 1)) (s.afterRead (s.pc + 1))
    simp only [exec, execPrefixCB, ht]
    nofun
  | _ => nofun

/-! ## Code in memory -/

/-- Where code stands depends on the kinds of address, the cells and the places of the controller's
registers alone. -/
theorem State.holdsAt_of_eq {s t : State} {a : Word} {bytes : List Byte} (h : s.holdsAt a bytes)
    (hbus : t.bus = s.bus) (hmem : t.mem = s.mem)
    (hctl : ∀ x, t.intCtl.register x = none ↔ s.intCtl.register x = none) : t.holdsAt a bytes := by
  induction bytes generalizing a with
  | nil => trivial
  | cons v rest ih =>
    obtain ⟨hkind, hreg, hcell, hrest⟩ := h
    exact ⟨by rwa [State.kindAt, hbus], (hctl a).2 hreg, hmem ▸ hcell, ih hrest⟩

section Code

variable {s : State} {a : Word} {v : Byte} {rest : List Byte}

theorem State.readByte_of_holdsAt (h : s.holdsAt a (v :: rest)) : s.readByte a = v := by
  obtain ⟨hkind, hctl, hcell, _⟩ := h
  rw [State.readByte_plain hctl hkind, hcell]

theorem State.afterRead_of_holdsAt (h : s.holdsAt a (v :: rest)) :
    s.afterRead a = { s with history := .read a v :: s.history } := by
  rw [State.afterRead, State.readByte_of_holdsAt h]

/-- The code behind the first byte still stands there after that byte's read. -/
theorem State.holdsAt_afterRead (h : s.holdsAt a (v :: rest)) :
    (s.afterRead a).holdsAt (a + 1) rest := by
  obtain ⟨_, _, _, hrest⟩ := h
  exact State.holdsAt_of_eq hrest rfl rfl fun _ => .rfl

end Code

/-! ## The fetch (R60, R95)

The states between the reads are resolved from the last to the first: the facts about a read speak of the
state before it as `State.afterRead` of the one before that. -/

section Fetch

variable {s : State} {op b1 b2 : Byte}

theorem State.fetch_one (h : s.holdsAt s.pc [op]) (hcount : fetchCount op = 1) :
    s.fetch = (decodeBytes op 0 0, { s with history := fetchHistory s.history s.pc [op] }) := by
  simp only [State.fetch, State.readByte_of_holdsAt h, hcount, State.afterRead_of_holdsAt h, fetchHistory]

theorem State.fetch_two (h : s.holdsAt s.pc [op, b1]) (hcount : fetchCount op = 2) :
    s.fetch = (decodeBytes op b1 0, { s with history := fetchHistory s.history s.pc [op, b1] }) := by
  have h1 := State.holdsAt_afterRead h
  simp only [State.fetch, State.readByte_of_holdsAt h, hcount, State.readByte_of_holdsAt h1,
    State.afterRead_of_holdsAt h1]
  simp only [State.afterRead_of_holdsAt h, fetchHistory]

theorem State.fetch_three (h : s.holdsAt s.pc [op, b1, b2]) (hcount : fetchCount op = 3) :
    s.fetch =
      (decodeBytes op b1 b2, { s with history := fetchHistory s.history s.pc [op, b1, b2] }) := by
  have hpc : s.pc + 1 + 1 = s.pc + 2 := BitVec.add_assoc s.pc 1 1
  have h1 := State.holdsAt_afterRead h
  have h2 := State.holdsAt_afterRead h1
  rw [hpc] at h2
  simp only [State.fetch, State.readByte_of_holdsAt h, hcount, State.readByte_of_holdsAt h1,
    State.readByte_of_holdsAt h2, State.afterRead_of_holdsAt h2]
  simp only [State.afterRead_of_holdsAt h1]
  simp only [State.afterRead_of_holdsAt h, fetchHistory, hpc]

end Fetch

theorem fetchCount_of_ne_stop {op b1 b2 : Byte} (h : decodeBytes op b1 b2 ≠ .stop) :
    fetchCount op = lengthOf op := by
  refine if_neg ?_
  rintro rfl
  exact h (decodeBytes_stop b1 b2)

theorem fetchedBytes_of_ne_stop {i : Instr} (h : i ≠ .stop) : fetchedBytes i = encode i := by
  cases i with
  | stop => exact absurd rfl h
  | _ => rfl

/-- The fetch reads an instruction's bytes and gives the instruction, by `decode_encode`; of STOP it reads
the first byte only (R204). -/
theorem State.fetch_of_holdsAt {s : State} {i : Instr} (hi : i.wellFormed = true)
    (h : s.holdsAt s.pc (fetchedBytes i)) :
    s.fetch = (i, { s with history := fetchHistory s.history s.pc (fetchedBytes i) }) := by
  by_cases hstop : i = .stop
  · subst hstop
    exact State.fetch_one h rfl
  · rw [fetchedBytes_of_ne_stop hstop] at h ⊢
    have hdec := decode_eq_ok_iff.1 (decode_encode i [] hi)
    rw [List.append_nil] at hdec
    generalize encode i = bytes at hdec h ⊢
    cases hdec with
    | one hlen => exact State.fetch_one h ((fetchCount_of_ne_stop hstop).trans hlen)
    | two hlen => exact State.fetch_two h ((fetchCount_of_ne_stop hstop).trans hlen)
    | three hlen => exact State.fetch_three h ((fetchCount_of_ne_stop hstop).trans hlen)

/-! ## The step of a running CPU (R306) -/

theorem State.runInstr_of_holdsAt {s : State} {i : Instr} (hi : i.wellFormed = true)
    (h : s.holdsAt s.pc (fetchedBytes i)) :
    s.runInstr =
      completeEI s.eiPending i
        (exec i
          { s with
            eiPending := false
            history := fetchHistory s.history s.pc (fetchedBytes i) }) := by
  have hcode : State.holdsAt { s with eiPending := false } s.pc (fetchedBytes i) :=
    State.holdsAt_of_eq h rfl rfl fun _ => .rfl
  simp only [State.runInstr]
  rw [State.fetch_of_holdsAt hi hcode]

/-- With no reset arriving and no interrupt due a running CPU runs an instruction. -/
theorem step_eq_runInstr {s : State} (hreset : s.arrival.reset = none) (hrun : s.mode = .running)
    (hdue : s.ime = false ∨ (s.arrival.irqs.foldl IntCtl.event s.intCtl).pending = none) :
    step s =
      State.runInstr
        { s with
          arrivals := s.arrivals.tail
          intCtl := s.arrival.irqs.foldl IntCtl.event s.intCtl } := by
  rw [step_noReset hreset, State.cpuStep_running _ (by exact hrun)]
  rcases hdue with hime | hpending
  · simp [State.interruptDue, hime]
  · simp [State.interruptDue, hpending]

theorem completeEI_next_of_takes {i : Instr} (t : State) (hdi : i ≠ .di)
    (hassigned : ∀ op, i ≠ .unassigned op) :
    completeEI true i (.next t) = .next { t with ime := true } := by
  cases i with
  | di => exact absurd rfl hdi
  | unassigned op => exact absurd rfl (hassigned op)
  | _ => rfl

theorem completeEI_next_of_not_takes {p : Bool} {i : Instr} (t : State)
    (h : p = false ∨ i = .di ∨ ∃ op, i = .unassigned op) :
    completeEI p i (.next t) = .next t := by
  rcases h with rfl | rfl | ⟨op, rfl⟩
  · rfl
  · cases p <;> rfl
  · cases p <;> rfl

/-- Settles O44: the step is the instruction at pc with the delayed effect of EI. -/
theorem stepRunsTheDecodedInstruction : Obligations.StepRunsTheDecodedInstruction := by
  intro s i hi hreset hrun c hdue hcode fetched
  have hstep : step s = completeEI s.eiPending i (exec i fetched) :=
    (step_eq_runInstr hreset hrun hdue).trans
      (State.runInstr_of_holdsAt hi
        (State.holdsAt_of_eq hcode rfl rfl (IntCtl.events_register _ _)))
  refine ⟨fun t ht => ⟨fun hei hdi hassigned => ?_, fun hnot => ?_⟩, fun e he => ?_,
    exec_ne_fault i fetched⟩
  · rw [hstep, ht, hei, completeEI_next_of_takes t hdi hassigned]
  · rw [hstep, ht, completeEI_next_of_not_takes t hnot]
  · rw [hstep, he, completeEI]

end Sys2Proof.Machine
end

section
/-!
PROOFS. The 8-bit arithmetic and logic instructions (spec/40_alu8.md): one lemma for the 24 forms on A and
one for INC and DEC say what is written in terms of the operation; each operation is then said once over the
naturals, as the rules write it.
-/

namespace Sys2Proof.Machine

/-! ## The operations over the naturals (R121, R122, R139 to R142) -/

theorem beq_zero_eq (v : Byte) : (v == 0) = decide (v.toNat = 0) := by
  rw [beq_eq_decide, decide_eq_decide, ← BitVec.toNat_inj]
  rfl

theorem ofNat_beq_zero (r : Nat) : (BitVec.ofNat 8 r == 0) = decide (r % 256 = 0) := by
  rw [beq_zero_eq, BitVec.toNat_ofNat]

theorem ofNat_mod_256 (r : Nat) : BitVec.ofNat 8 (r % 256) = BitVec.ofNat 8 r := by
  simp [← BitVec.toNat_inj]

/-- A difference of bytes, made a difference of naturals by adding a multiple of 256 first. -/
theorem ofInt_sub_sub (a y : Byte) (c : Bool) :
    BitVec.ofInt 8 ((a.toNat : Int) - y.toNat - bitNat c) =
      BitVec.ofNat 8 (a.toNat + 512 - y.toNat - bitNat c) := by
  have hc : bitNat c ≤ 1 := by cases c <;> decide
  apply BitVec.eq_of_toNat_eq
  simp only [BitVec.toNat_ofInt, BitVec.toNat_ofNat]
  omega

theorem bitNat_and (b c : Bool) : bitNat (b && c) = if b = true ∧ c = true then 1 else 0 := by
  simp [bitNat]

theorem add8_eq (a y : Byte) (c : Bool) :
    add8 a y c =
      (BitVec.ofNat 8 ((a.toNat + y.toNat + bitNat c) % 256),
        { z := decide ((a.toNat + y.toNat + bitNat c) % 256 = 0)
          n := false
          h := decide (15 < a.toNat % 16 + y.toNat % 16 + bitNat c)
          c := decide (255 < a.toNat + y.toNat + bitNat c) }) := by
  rw [ofNat_mod_256, ← ofNat_beq_zero]
  rfl

theorem sub8_eq (a y : Byte) (c : Bool) :
    sub8 a y c =
      (BitVec.ofNat 8 ((a.toNat + 512 - y.toNat - bitNat c) % 256),
        { z := decide ((a.toNat + 512 - y.toNat - bitNat c) % 256 = 0)
          n := true
          h := decide (a.toNat % 16 < y.toNat % 16 + bitNat c)
          c := decide (a.toNat < y.toNat + bitNat c) }) := by
  rw [ofNat_mod_256, ← ofNat_beq_zero, ← ofInt_sub_sub]
  rfl

/-- Without a borrow taken in, the difference is zero exactly when the bytes are equal (R134). -/
theorem sub8_false_flags (a y : Byte) :
    (sub8 a y false).2 =
      { z := decide (a = y), n := true, h := decide (a.toNat % 16 < y.toNat % 16),
        c := decide (a.toNat < y.toNat) } := by
  have hz : (a.toNat + 512 - y.toNat - bitNat false) % 256 = 0 ↔ a = y := by
    rw [← BitVec.toNat_inj, bitNat]
    simp only [Bool.false_eq_true, if_false]
    omega
  simp only [sub8_eq, hz]
  rfl

theorem inc8_eq (v : Byte) (f : Flags) :
    inc8 v f =
      (BitVec.ofNat 8 ((v.toNat + 1) % 256),
        { z := decide (v = 0xFF#8), n := false, h := decide (v.toNat % 16 = 15), c := f.c }) := by
  have hz : v + 1#8 = 0#8 ↔ v = 0xFF#8 := by bv_omega
  have hv : v + 1 = BitVec.ofNat 8 ((v.toNat + 1) % 256) := by bv_omega
  simp [inc8, ← hv, beq_eq_decide, hz]

theorem dec8_eq (v : Byte) (f : Flags) :
    dec8 v f =
      (BitVec.ofNat 8 ((v.toNat + 255) % 256),
        { z := decide (v = 0x01#8), n := true, h := decide (v.toNat % 16 = 0), c := f.c }) := by
  have hz : v - 1#8 = 0#8 ↔ v = 0x01#8 := by bv_omega
  have hv : v - 1 = BitVec.ofNat 8 ((v.toNat + 255) % 256) := by bv_omega
  simp [dec8, ← hv, beq_eq_decide, hz]

/-! ## Operations on A (R120) -/

/-- What an A-operation makes of A, the operand and the old carry; CP leaves A (R134). -/
def AluOp.result (op : AluOp) (c : Bool) (a y : Byte) : Byte × Flags :=
  match op with
  | .add => add8 a y false
  | .adc => add8 a y c
  | .sub => sub8 a y false
  | .sbc => sub8 a y c
  | .and => and8 a y
  | .xor => xor8 a y
  | .or => or8 a y
  | .cp => (a, (sub8 a y false).2)

/-- All 24 forms: the operand is read, A and the flags take the result, the pc moves on. -/
theorem exec_aluInstr (op : AluOp) (o : ByteSource) (s : State) :
    exec (aluInstr op o) s =
      .next { o.after s with
        regs := { s.regs with a := (op.result s.flags.c s.regs.a (o.value s)).1 }
        flags := (op.result s.flags.c s.regs.a (o.value s)).2
        pc := s.pc + BitVec.ofNat 16 o.length } := by
  cases o with
  | reg | mem | imm => cases op <;> rfl

theorem result_add_or_adc (withCarry c : Bool) (a y : Byte) :
    (if withCarry then AluOp.adc else .add).result c a y = add8 a y (withCarry && c) := by
  cases withCarry <;> rfl

theorem result_sub_or_sbc (withCarry c : Bool) (a y : Byte) :
    (if withCarry then AluOp.sbc else .sub).result c a y = sub8 a y (withCarry && c) := by
  cases withCarry <;> rfl

/-- Settles O6, from what an A-operation writes and `add8_eq`. -/
theorem addAndAdcWriteTheSum : Obligations.AddAndAdcWriteTheSum := by
  intro s o withCarry a y c
  rw [exec_aluInstr, result_add_or_adc, add8_eq, bitNat_and]

/-- Settles O7, from what an A-operation writes and `sub8_eq`. -/
theorem subAndSbcWriteTheDifference : Obligations.SubAndSbcWriteTheDifference := by
  intro s o withCarry a y c
  rw [exec_aluInstr, result_sub_or_sbc, sub8_eq, bitNat_and]

/-- Settles O8: CP's result keeps A, and its flags are `sub8_false_flags`. -/
theorem cpWritesOnlyTheFlagsOfTheDifference : Obligations.CpWritesOnlyTheFlagsOfTheDifference := by
  intro s o
  have keepsRegs : (o.after s).regs = s.regs := by cases o <;> rfl
  rw [exec_aluInstr, ← sub8_false_flags, ← keepsRegs]
  rfl

/-- Settles O9: the test for a zero result, restated on the operands for OR and XOR. -/
theorem logicWritesAAndItsFlags : Obligations.LogicWritesAAndItsFlags := by
  intro s o
  refine ⟨?_, ?_, ?_⟩ <;> rw [exec_aluInstr]
  · simp [AluOp.result, and8, beq_eq_decide]
  · simp [AluOp.result, or8, beq_eq_decide, BitVec.or_eq_zero_iff]
  · simp [AluOp.result, xor8, beq_eq_decide, BitVec.xor_eq_zero_iff]

/-! ## INC and DEC (R139 to R142) -/

theorem ByteTarget.exec_inc (x : ByteTarget) (s : State) :
    ∃ t, exec x.inc s = .next t ∧
      x.Replaced s t (inc8 (x.value s) s.flags).1 (inc8 (x.value s) s.flags).2 1 := by
  cases x with
  | reg r => exact ⟨_, rfl, modifyR8_replaced _ r 1 s⟩
  | mem => exact ⟨_, rfl, modifyHL_replaced _ 1 s⟩

theorem ByteTarget.exec_dec (x : ByteTarget) (s : State) :
    ∃ t, exec x.dec s = .next t ∧
      x.Replaced s t (dec8 (x.value s) s.flags).1 (dec8 (x.value s) s.flags).2 1 := by
  cases x with
  | reg r => exact ⟨_, rfl, modifyR8_replaced _ r 1 s⟩
  | mem => exact ⟨_, rfl, modifyHL_replaced _ 1 s⟩

/-- Settles O10, from what INC and DEC replace and the two operations. -/
theorem incAndDecReplaceTheByte : Obligations.IncAndDecReplaceTheByte := by
  intro s x
  have inc := x.exec_inc s
  have dec := x.exec_dec s
  rw [inc8_eq] at inc
  rw [dec8_eq] at dec
  exact ⟨inc, dec⟩

/-! ## DAA (R138) -/

/-- The correction that DAA adds or subtracts, by its tests for the low and the high digit. -/
def daaAmount (low high : Bool) : Nat := (if low then 6 else 0) + if high then 0x60 else 0

theorem daaAmount_le : ∀ low high : Bool, daaAmount low high ≤ 0x66 := by decide

theorem daaCorrection_eq (a : Byte) (f : Flags) :
    daaCorrection a f = BitVec.ofNat 8 (daaAmount (daaLow a f) (daaHigh a f)) := by
  unfold daaCorrection
  cases daaLow a f <;> cases daaHigh a f <;> rfl

theorem daa8_toNat (a : Byte) (f : Flags) :
    (daa8 a f).1.toNat =
      if f.n then (a.toNat + 256 - daaAmount (daaLow a f) (daaHigh a f)) % 256
      else (a.toNat + daaAmount (daaLow a f) (daaHigh a f)) % 256 := by
  have hle := daaAmount_le (daaLow a f) (daaHigh a f)
  cases hn : f.n with
  | false => simp [daa8, hn, daaCorrection_eq]
  | true =>
    simp only [daa8, hn, if_true, daaCorrection_eq, BitVec.toNat_sub, BitVec.toNat_ofNat]
    omega

theorem daa8_flags (a : Byte) (f : Flags) :
    (daa8 a f).2 =
      { z := decide ((daa8 a f).1.toNat = 0), n := f.n, h := false, c := daaHigh a f } := by
  rw [← beq_zero_eq]
  rfl

theorem exec_daa (s : State) :
    exec .daa s =
      .next { s with
        regs := { s.regs with a := (daa8 s.regs.a s.flags).1 }
        flags := (daa8 s.regs.a s.flags).2
        pc := s.pc + 1 } := rfl

/-- Settles O11: the rule's correction is the amount of the model's two tests. -/
theorem daaFollowsItsAlgorithm : Obligations.DaaFollowsItsAlgorithm := by
  intro s a low c u res
  have hlow : (if daaLow s.regs.a s.flags then 6 else 0) = low := by simp [daaLow, low, a]
  have hres : (daa8 s.regs.a s.flags).1.toNat = res := by
    rw [daa8_toNat, daaAmount, hlow]
    rfl
  rw [exec_daa, daa8_flags, hres, ← hres, BitVec.ofNat_toNat, BitVec.setWidth_eq]
  rfl

/-! ## DAA after ADD and SUB of packed BCD bytes -/

/-- After ADD the low digit is corrected exactly when the digits' sum is no digit: it is seen in A up to
0Fh, and by H beyond. -/
theorem daaLow_add8 (a y : Byte) :
    daaLow (add8 a y false).1 (add8 a y false).2 = decide (9 < a.toNat % 16 + y.toNat % 16) := by
  rw [Bool.eq_iff_iff]
  simp only [daaLow, add8_eq, bitNat, BitVec.toNat_ofNat, Bool.or_eq_true, Bool.and_eq_true,
    decide_eq_true_eq, Bool.not_false, Bool.false_eq_true, if_false, true_and]
  omega

/-- The high digit is corrected exactly when the sum of the bytes is beyond 99h: it is seen in A up to
FFh, and by C beyond. -/
theorem daaHigh_add8 (a y : Byte) :
    daaHigh (add8 a y false).1 (add8 a y false).2 = decide (0x99 < a.toNat + y.toNat) := by
  rw [Bool.eq_iff_iff]
  simp only [daaHigh, add8_eq, bitNat, BitVec.toNat_ofNat, Bool.or_eq_true, Bool.and_eq_true,
    decide_eq_true_eq, Bool.not_false, Bool.false_eq_true, if_false, true_and]
  omega

theorem daaLow_sub8 (a y : Byte) :
    daaLow (sub8 a y false).1 (sub8 a y false).2 = decide (a.toNat % 16 < y.toNat % 16) := by
  simp [daaLow, sub8_false_flags]

theorem daaHigh_sub8 (a y : Byte) :
    daaHigh (sub8 a y false).1 (sub8 a y false).2 = decide (a.toNat < y.toNat) := by
  simp [daaHigh, sub8_false_flags]

theorem daa8_add8_toNat (a y : Byte) :
    (daa8 (add8 a y false).1 (add8 a y false).2).1.toNat =
      (a.toNat + y.toNat +
        daaAmount (decide (9 < a.toNat % 16 + y.toNat % 16)) (decide (0x99 < a.toNat + y.toNat))) %
        256 := by
  rw [daa8_toNat, daaLow_add8, daaHigh_add8]
  simp [add8_eq, bitNat]

theorem daa8_sub8_toNat (a y : Byte) :
    (daa8 (sub8 a y false).1 (sub8 a y false).2).1.toNat =
      (a.toNat + 512 - y.toNat -
        daaAmount (decide (a.toNat % 16 < y.toNat % 16)) (decide (a.toNat < y.toNat))) % 256 := by
  have hle := daaAmount_le (decide (a.toNat % 16 < y.toNat % 16)) (decide (a.toNat < y.toNat))
  rw [daa8_toNat, daaLow_sub8, daaHigh_sub8]
  simp only [sub8_eq, bitNat, BitVec.toNat_ofNat, Bool.false_eq_true, if_false, if_true]
  omega

/-- Addition digit by digit with a decimal carry is the corrected addition of the bytes. -/
theorem add_daaAmount_digits {ah al yh yl : Nat} (hah : ah ≤ 9) (hal : al ≤ 9) (hyh : yh ≤ 9)
    (hyl : yl ≤ 9) :
    (16 * ah + al + (16 * yh + yl) +
        daaAmount (decide (9 < al + yl)) (decide (0x99 < 16 * ah + al + (16 * yh + yl)))) % 256 =
      16 * ((ah + yh + (al + yl) / 10) % 10) + (al + yl) % 10 := by
  simp only [daaAmount, decide_eq_true_eq]
  split <;> split <;> omega

/-- Subtraction digit by digit with a decimal borrow is the corrected subtraction of the bytes. -/
theorem sub_daaAmount_digits {ah al yh yl : Nat} (hah : ah ≤ 9) (hal : al ≤ 9) (hyh : yh ≤ 9)
    (hyl : yl ≤ 9) :
    (16 * ah + al + 512 - (16 * yh + yl) -
        daaAmount (decide (al < yl)) (decide (16 * ah + al < 16 * yh + yl))) % 256 =
      16 * ((ah + 9 - yh + (al + 10 - yl) / 10) % 10) + (al + 10 - yl) % 10 := by
  simp only [daaAmount, decide_eq_true_eq]
  split <;> split <;> omega

theorem bcd_of_digits {v : Byte} {hi lo : Nat} (hv : v.toNat = 16 * hi + lo) (hhi : hi ≤ 9)
    (hlo : lo ≤ 9) : isBcd v ∧ bcdValue v = 10 * hi + lo := by
  simp only [isBcd, bcdValue, hv]
  omega

theorem daa8_add8_bcd (a y : Byte) (ha : isBcd a) (hy : isBcd y) :
    isBcd (daa8 (add8 a y false).1 (add8 a y false).2).1 ∧
      bcdValue (daa8 (add8 a y false).1 (add8 a y false).2).1 = (bcdValue a + bcdValue y) % 100 ∧
      ((daa8 (add8 a y false).1 (add8 a y false).2).2.c = true ↔
        100 ≤ bcdValue a + bcdValue y) := by
  have digits := add_daaAmount_digits ha.1 ha.2 hy.1 hy.2
  rw [Nat.div_add_mod, Nat.div_add_mod, ← daa8_add8_toNat] at digits
  obtain ⟨hbcd, hvalue⟩ := bcd_of_digits digits (by omega) (by omega)
  refine ⟨hbcd, hvalue.trans ?_, ?_⟩
  · simp only [bcdValue]
    omega
  · simp only [daa8_flags, daaHigh_add8, decide_eq_true_eq, bcdValue]
    omega

theorem daa8_sub8_bcd (a y : Byte) (ha : isBcd a) (hy : isBcd y) :
    isBcd (daa8 (sub8 a y false).1 (sub8 a y false).2).1 ∧
      bcdValue (daa8 (sub8 a y false).1 (sub8 a y false).2).1 =
        (bcdValue a + 100 - bcdValue y) % 100 ∧
      ((daa8 (sub8 a y false).1 (sub8 a y false).2).2.c = true ↔ bcdValue a < bcdValue y) := by
  have digits := sub_daaAmount_digits ha.1 ha.2 hy.1 hy.2
  rw [Nat.div_add_mod, Nat.div_add_mod, ← daa8_sub8_toNat] at digits
  obtain ⟨hbcd, hvalue⟩ := bcd_of_digits digits (by omega) (by omega)
  refine ⟨hbcd, hvalue.trans ?_, ?_⟩
  · simp only [bcdValue]
    omega
  · simp only [daa8_flags, daaHigh_sub8, decide_eq_true_eq, bcdValue]
    omega

/-- Settles O12: the results of ADD and SUB, put through DAA. -/
theorem daaCorrectsBcdAdditionAndSubtraction : Obligations.DaaCorrectsBcdAdditionAndSubtraction :=
  fun s y ha hy =>
    ⟨⟨_, _, exec_aluInstr .add (.imm y) s, exec_daa _, daa8_add8_bcd s.regs.a y ha hy⟩,
      ⟨_, _, exec_aluInstr .sub (.imm y) s, exec_daa _, daa8_sub8_bcd s.regs.a y ha hy⟩⟩

/-! ## CCF, SCF and CPL (R133, R137, R149) -/

/-- A byte's complement is its distance from FFh. -/
theorem not_eq_ofNat (v : Byte) : ~~~v = BitVec.ofNat 8 (255 - v.toNat) := by
  apply BitVec.eq_of_toNat_eq
  rw [BitVec.toNat_not, BitVec.toNat_ofNat]
  omega

/-- Settles O13. -/
theorem ccfScfCplWriteTheirFlags : Obligations.CcfScfCplWriteTheirFlags := by
  intro s
  refine ⟨rfl, rfl, ?_⟩
  rw [← not_eq_ofNat]
  rfl

end Sys2Proof.Machine
end

section
/-!
PROOFS. The 16-bit arithmetic instructions (spec/41_alu16.md, and R220 of spec/45_load.md): each addition is
said once over the numbers, as the rules write it; INC and DEC share one lemma about writing a 16-bit register.
-/

namespace Sys2Proof.Machine

/-! ## The additions over the numbers (R160, R161, R220) -/

theorem add16_toNat (a y : Word) (f : Flags) :
    (add16 a y f).1.toNat = (a.toNat + y.toNat) % 65536 := BitVec.toNat_ofNat _ _

/-- Sign extension keeps the offset's signed value, so the sum wraps as the sum of the integers does. -/
theorem addOffset_toNat (w : Word) (e : Byte) :
    ((addOffset w e).1.toNat : Int) = ((w.toNat : Int) + e.toInt) % 65536 := by
  have hext : (e.signExtend 16).toNat = (e.toInt % 65536).toNat := BitVec.toNat_ofInt _
  have hsum : (addOffset w e).1.toNat = (w.toNat + (e.signExtend 16).toNat) % 65536 := BitVec.toNat_add _ _
  omega

/-! ## ADD HL, r16, ADD SP, e8 and LD HL, SP + e8 -/

/-- Settles O14: HL reads back the sum, and all else is as ADD HL writes it. -/
theorem addHLWritesTheSumAndKeepsZ : Obligations.AddHLWritesTheSumAndKeepsZ := by
  intro s p a y
  have hsum : (s.setHL (add16 s.hl (s.r16 p) s.flags).1).hl.toNat = (a + y) % 65536 := by
    rw [State.setHL_hl, add16_toNat]
  exact ⟨_, rfl, hsum, rfl⟩

/-- Settles O15: the two instructions write one sum and the same flags, to SP and to HL. -/
theorem spPlusOffsetWritesSumAndLowByteCarries : Obligations.SpPlusOffsetWritesSumAndLowByteCarries := by
  intro s e sum f
  have hsum : ((addOffset s.sp e).1.toNat : Int) = sum := addOffset_toNat s.sp e
  have hhl : ((s.setHL (addOffset s.sp e).1).hl.toNat : Int) = sum := by rw [State.setHL_hl, hsum]
  exact ⟨⟨_, rfl, hsum, rfl⟩, ⟨_, rfl, hhl, rfl⟩⟩

/-! ## INC r16 and DEC r16 (R162, R163) -/

@[simp] theorem State.advance_r16 (s : State) (n : Nat) (p : R16) : (s.advance n).r16 p = s.r16 p := by
  cases p <;> rfl

/-- A 16-bit register is two of the halves b to l, or SP: writing one leaves A and all outside them. -/
theorem State.setReg16_frame (s : State) (p : R16) (v : Word) :
    s.setReg16 p v =
      { s with regs := { (s.setReg16 p v).regs with a := s.regs.a }, sp := (s.setReg16 p v).sp } := by
  cases p <;> rfl

/-- What writing a 16-bit register and moving on does to the registers, whichever one it is. -/
theorem State.setReg16_advance (s : State) (p : R16) (v : Word) :
    let t := (s.setReg16 p v).advance 1
    t.r16 p = v ∧ (∀ q, q ≠ p → t.r16 q = s.r16 q) ∧
      t = { s with regs := { t.regs with a := s.regs.a }, sp := t.sp, pc := s.pc + 1 } := by
  refine ⟨?_, fun q hq => ?_, ?_⟩
  · rw [State.advance_r16, State.setReg16_r16_same]
  · rw [State.advance_r16, s.setReg16_r16_other v hq]
  · exact congrArg (State.advance · 1) (s.setReg16_frame p v)

/-- Settles O16: both instructions write the register's count; modulo 65536, taking 1 is adding 65535. -/
theorem incAndDecOf16BitRegistersWriteNoFlag : Obligations.IncAndDecOf16BitRegistersWriteNoFlag := by
  intro s p
  have hinc : (s.r16 p + 1).toNat = ((s.r16 p).toNat + 1) % 65536 := BitVec.toNat_add _ _
  have hdec : (s.r16 p - 1).toNat = ((s.r16 p).toNat + 65535) % 65536 := by bv_omega
  obtain ⟨incSame, incOther, incFrame⟩ := s.setReg16_advance p (s.r16 p + 1)
  obtain ⟨decSame, decOther, decFrame⟩ := s.setReg16_advance p (s.r16 p - 1)
  exact ⟨⟨_, rfl, by rw [incSame, hinc], incOther, incFrame⟩,
    ⟨_, rfl, by rw [decSame, hdec], decOther, decFrame⟩⟩

end Sys2Proof.Machine
end

section
/-!
PROOFS. The bit instructions (spec/42_bit.md): the tested bit is said over the numbers, as R170 writes it, and
what RES and SET make of a byte bit by bit; then each instruction is one equation for both operands.
-/

namespace Sys2Proof.Machine

/-! ## Bits of a byte -/

theorem not_getLsbD_eq (v : Byte) (k : Nat) : (!v.getLsbD k) = decide (v.toNat / 2 ^ k % 2 = 0) := by
  rw [BitVec.getLsbD, Nat.testBit_eq_decide_div_mod_eq, ← decide_not, decide_eq_decide]
  exact Nat.mod_two_ne_one

/-- The byte that `clearBit` and `setBit` use has one bit: a `BitVec 3` numbers a bit of the byte. -/
theorem getLsbD_one_shiftLeft (k : BitVec 3) (j : Nat) :
    (1#8 <<< k.toNat).getLsbD j = decide (k.toNat = j) := by
  have hk : k.toNat < 8 := k.isLt
  rw [← BitVec.twoPow_eq, BitVec.getLsbD_twoPow, decide_eq_true hk, Bool.true_and]

theorem getLsbD_clearBit (v : Byte) (k : BitVec 3) {j : Nat} (hj : j < 8) :
    (clearBit v k).getLsbD j = if j = k.toNat then false else v.getLsbD j := by
  rw [clearBit, BitVec.getLsbD_and, BitVec.getLsbD_not, getLsbD_one_shiftLeft]
  by_cases h : j = k.toNat
  · simp [h]
  · simp [h, hj, Ne.symm h]

theorem getLsbD_setBit (v : Byte) (k : BitVec 3) (j : Nat) :
    (setBit v k).getLsbD j = if j = k.toNat then true else v.getLsbD j := by
  rw [setBit, BitVec.getLsbD_or, getLsbD_one_shiftLeft]
  by_cases h : j = k.toNat
  · simp [h]
  · simp [h, Ne.symm h]

/-! ## BIT (R170, R171) -/

theorem bitTest_eq (v : Byte) (k : BitVec 3) (f : Flags) :
    bitTest v k f =
      { z := decide (v.toNat / 2 ^ k.toNat % 2 = 0), n := false, h := true, c := f.c } := by
  rw [bitTest, not_getLsbD_eq]

/-- BIT on either operand: only the byte at HL leaves a read in the history. -/
theorem ByteTarget.exec_bit (x : ByteTarget) (k : BitVec 3) (s : State) :
    exec (x.bit k) s =
      .next { s with
        flags := bitTest (x.value s) k s.flags
        pc := s.pc + 2
        history := if x = .mem then .read s.hl (s.readByte s.hl) :: s.history else s.history } := by
  cases x with
  | reg r => rfl
  | mem => rfl

/-- Settles O17. -/
theorem bitTestsWithoutWriting : Obligations.BitTestsWithoutWriting := by
  intro s x k
  rw [x.exec_bit, bitTest_eq]

/-! ## RES and SET (R172 to R175) -/

/-- The operand replaced by an operation that writes no flag: the state that RES and SET leave. -/
def ByteTarget.change (x : ByteTarget) (op : Byte → Byte) (s : State) : State :=
  match x with
  | .reg r => changeR8 op r s
  | .mem => changeHL op s

theorem ByteTarget.change_replaced (x : ByteTarget) (op : Byte → Byte) (s : State) :
    x.Replaced s (x.change op s) (op (x.value s)) s.flags 2 := by
  cases x with
  | reg r => exact changeR8_replaced op r s
  | mem => exact changeHL_replaced op s

theorem ByteTarget.exec_res (x : ByteTarget) (k : BitVec 3) (s : State) :
    exec (x.res k) s = .next (x.change (clearBit · k) s) := by
  cases x with
  | reg r => rfl
  | mem => rfl

theorem ByteTarget.exec_set (x : ByteTarget) (k : BitVec 3) (s : State) :
    exec (x.set k) s = .next (x.change (setBit · k) s) := by
  cases x with
  | reg r => rfl
  | mem => rfl

/-- Settles O18, from what the two operations make of each bit. -/
theorem resAndSetChangeOneBit : Obligations.ResAndSetChangeOneBit := fun s x k =>
  ⟨⟨_, _, x.exec_res k s, x.change_replaced _ s, fun _ hj => getLsbD_clearBit _ k hj⟩,
    ⟨_, _, x.exec_set k s, x.change_replaced _ s, fun j _ => getLsbD_setBit _ k j⟩⟩

end Sys2Proof.Machine
end

section
/-!
PROOFS. The control transfer instructions (spec/43_control.md): each conditional form chooses by the table of
R180; a jump's target is one integer taken modulo 65536; calls and returns rest on the rules of the stack.
-/

namespace Sys2Proof.Machine

/-! ## Conditions (R180) -/

/-- The model's condition is the table of R180. -/
theorem condHolds_eq (cc : Cond) (f : Flags) : condHolds cc f = conditionTrue cc f := by
  cases cc with
  | nz => exact Bool.decide_eq_false.symm
  | z => exact Bool.decide_eq_true.symm
  | nc => exact Bool.decide_eq_false.symm
  | c => exact Bool.decide_eq_true.symm

theorem exec_callCC (cc : Cond) (n : Word) (s : State) :
    exec (.callCC cc n) s =
      .next (if conditionTrue cc s.flags then s.callTo (s.pc + 3) n else { s with pc := s.pc + 3 }) := by
  rw [← condHolds_eq]
  rfl

theorem exec_jpCC (cc : Cond) (n : Word) (s : State) :
    exec (.jpCC cc n) s = .next (s.jump (if conditionTrue cc s.flags then n else s.pc + 3)) := by
  rw [← condHolds_eq, apply_ite s.jump]
  rfl

theorem exec_jrCC (cc : Cond) (e : Byte) (s : State) :
    exec (.jrCC cc e) s =
      .next (s.jump (if conditionTrue cc s.flags then jrTarget s.pc e else s.pc + 2)) := by
  rw [← condHolds_eq, apply_ite s.jump]
  rfl

theorem exec_retCC (cc : Cond) (s : State) :
    exec (.retCC cc) s =
      .next (if conditionTrue cc s.flags then s.returnFromStack else { s with pc := s.pc + 1 }) := by
  rw [← condHolds_eq]
  rfl

/-! ## Jumps (R183 to R188) -/

/-- The word of an integer is that integer modulo 65536. -/
theorem toNat_ofInt_word (x : Int) : ((BitVec.ofInt 16 x).toNat : Int) = x % 65536 := by
  rw [BitVec.toNat_ofInt]
  omega

theorem ofInt_toNat_word (w : Word) : BitVec.ofInt 16 w.toNat = w := by
  rw [BitVec.ofInt_natCast, BitVec.ofNat_toNat, BitVec.setWidth_eq]

/-- Moving a word on by an integer, modulo 65536. -/
theorem ofInt_toNat_add (w : Word) (k : Int) :
    BitVec.ofInt 16 (w.toNat + k) = w + BitVec.ofInt 16 k := by
  rw [BitVec.ofInt_add, ofInt_toNat_word]

/-- R188: the signed offset counts from the instruction after the JR. -/
theorem ofInt_jrTarget (pc : Word) (e : Byte) :
    BitVec.ofInt 16 (pc.toNat + 2 + e.toInt) = jrTarget pc e := by
  rw [BitVec.ofInt_add, ofInt_toNat_add]
  rfl

theorem ofInt_hl (s : State) : BitVec.ofInt 16 (256 * s.regs.h.toNat + s.regs.l.toNat) = s.hl := by
  apply BitVec.eq_of_toNat_eq
  have hhl : s.hl.toNat = 256 * s.regs.h.toNat + s.regs.l.toNat := wordOf_toNat _ _
  have htarget := toNat_ofInt_word (256 * s.regs.h.toNat + s.regs.l.toNat)
  have hlt : s.hl.toNat < 65536 := s.hl.isLt
  omega

/-- Settles O30: every form jumps to the word of its target. -/
theorem jumpsWriteOnlyThePc : Obligations.JumpsWriteOnlyThePc := by
  intro s goesTo pc
  have jumpsTo {i : Instr} {target : Int} (h : exec i s = .next (s.jump (BitVec.ofInt 16 target))) :
      goesTo i target := ⟨_, h, toNat_ofInt_word target, rfl⟩
  refine ⟨jumpsTo ?_, fun n => jumpsTo ?_, fun cc n => jumpsTo ?_, fun e => jumpsTo ?_,
    fun cc e => jumpsTo ?_⟩
  · rw [ofInt_hl]
    rfl
  · rw [ofInt_toNat_word]
    rfl
  · rw [exec_jpCC, apply_ite (BitVec.ofInt 16), ofInt_toNat_word, ofInt_toNat_add]
    rfl
  · rw [ofInt_jrTarget]
    rfl
  · rw [exec_jrCC, apply_ite (BitVec.ofInt 16), ofInt_jrTarget, ofInt_toNat_add]
    rfl

/-! ## Calls (R181, R182, R192, R194) -/

/-- R194: the target of RST is 8 times its field. -/
theorem rstTarget_eq : ∀ k : BitVec 3, BitVec.ofNat 16 (8 * k.toNat) = 0#10 ++ k ++ 0#3 := by decide

/-- Settles O29, from the one call that the three forms share (`State.callTo_spec`). -/
theorem callsPushTheReturnAddress : Obligations.CallsPushTheReturnAddress := by
  intro s calls
  have callsTo {i : Instr} {back target : Word} (h : exec i s = .next (s.callTo back target)) :
      calls i back target := ⟨_, h, s.callTo_spec back target⟩
  refine ⟨fun n => callsTo rfl, fun cc n => ?_, fun k => callsTo ?_⟩
  · split
    case isTrue holds => exact callsTo (by rw [exec_callCC, if_pos holds])
    case isFalse fails => rw [exec_callCC, if_neg fails]
  · rw [← rstTarget_eq]
    rfl

/-! ## Returns (R190, R191, R193) -/

/-- Settles O31: the three forms share `State.returnFromStack`. -/
theorem returnsPopThePc : Obligations.ReturnsPopThePc :=
  fun s => ⟨rfl, fun cc => exec_retCC cc s, rfl⟩

/-- Settles O32: the word RET pops is the return address the CALL pushed. -/
theorem retAfterCallReturnsBehindTheCall : Obligations.RetAfterCallReturnsBehindTheCall := by
  intro s n hmem hhi hlo
  have popped : (s.callTo (s.pc + 3) n).popValue = s.pc + 3 := State.popValue_push16 _ hmem hhi hlo
  exact ⟨_, _, rfl, s.callTo_pc _ n, rfl, popped, by simp, by simp, by simp⟩

end Sys2Proof.Machine
end

section
/-!
PROOFS. The system instructions (spec/44_system.md): what DI, EI, NOP, STOP and HALT do themselves, the wait of
a stopped CPU, and the delay of EI. The delay is one step of EI from a masked CPU, and the step after it taken
with the EI waiting; what that step leaves in IME is what `completeEI` says of its instruction.
-/

namespace Sys2Proof.Machine

/-! ## The instructions themselves (R200 to R204) -/

theorem exec_di (s : State) :
    exec .di s = .next { s with ime := false, eiPending := false, pc := s.pc + 1 } := rfl

theorem exec_ei (s : State) : exec .ei s = .next { s with eiPending := true, pc := s.pc + 1 } := rfl

theorem exec_nop (s : State) : exec .nop s = .next { s with pc := s.pc + 1 } := rfl

theorem exec_stop (s : State) : exec .stop s = .next { s with mode := .stopped, pc := s.pc + 2 } := rfl

theorem exec_halt (s : State) :
    exec .halt s =
      if s.ime = false ∧ s.intCtl.pending ≠ none then .refused .haltWithRequestPending
      else .next { s with mode := .halted, pc := s.pc + 1 } := rfl

/-- Settles O33, from the equations of the four instructions. -/
theorem diEiNopStopEffects : Obligations.DiEiNopStopEffects := fun s =>
  ⟨exec_di s, exec_ei s, exec_nop s, exec_stop s⟩

/-- Settles O34: the two clauses are the branches of `exec_halt`. -/
theorem haltEntersHaltedOrIsRefused : Obligations.HaltEntersHaltedOrIsRefused := by
  intro s
  rw [exec_halt]
  refine ⟨fun henters => if_neg ?_, fun hime hpending => if_pos ⟨hime, hpending⟩⟩
  rintro ⟨hime, hpending⟩
  rcases henters with hset | hnone
  · exact Bool.false_ne_true (hime.symm.trans hset)
  · exact hpending hnone

/-! ## Mode Stopped (R204, R306) -/

theorem State.cpuStep_stopped {s : State} (wake : Bool) (h : s.mode = .stopped) :
    s.cpuStep wake = .next (s.stoppedStep wake) := by
  rw [State.cpuStep, h]

theorem State.stoppedStep_eq {s : State} (wake : Bool) (h : s.mode = .stopped) :
    s.stoppedStep wake = { s with mode := if wake then .running else .stopped } := by
  cases wake with
  | true => rfl
  | false =>
    cases s
    cases h
    rfl

/-- Settles O36: in mode Stopped the CPU's step looks at StopWake alone. -/
theorem stoppedWaitsForStopWake : Obligations.StoppedWaitsForStopWake := by
  intro s irqs wake later hstopped harrivals
  have harrival : s.arrival = ⟨none, irqs, wake⟩ := by rw [State.arrival, harrivals]
  rw [step_noReset (by rw [harrival]), State.cpuStep_stopped _ (by exact hstopped),
    State.stoppedStep_eq _ (by exact hstopped), harrival, harrivals, List.tail_cons]

/-! ## A running CPU that takes no interrupt (R306) -/

/-- The CPU runs with IME = 0, and no reset is to arrive: whatever requests arrive, none is entered. -/
structure State.RunsMasked (s : State) : Prop where
  running : s.mode = .running
  masked : s.ime = false
  noReset : ∀ x ∈ s.arrivals, x.reset = none

theorem State.arrival_reset_none {s : State} (h : ∀ x ∈ s.arrivals, x.reset = none) :
    s.arrival.reset = none := by
  rw [State.arrival]
  split
  case h_1 => rfl
  case h_2 x later harrivals => exact h x (harrivals ▸ List.mem_cons_self)

/-- The state in which the instruction fetched as `bytes` executes: the requests of the boundary have
arrived, no EI waits, and the bytes have been read. `State.RunsMasked.step_eq` ties it to the step. -/
def State.afterFetch (s : State) (bytes : List Byte) : State :=
  { s with
    eiPending := false
    intCtl := s.arrival.irqs.foldl IntCtl.event s.intCtl
    history := fetchHistory s.history s.pc bytes
    arrivals := s.arrivals.tail }

theorem State.RunsMasked.step_eq {s : State} {i : Instr} (hs : s.RunsMasked) (hi : i.wellFormed = true)
    (hcode : s.holdsAt s.pc (fetchedBytes i)) :
    step s = completeEI s.eiPending i (exec i (s.afterFetch (fetchedBytes i))) :=
  (step_eq_runInstr (State.arrival_reset_none hs.noReset) hs.running (.inl hs.masked)).trans
    (State.runInstr_of_holdsAt hi (State.holdsAt_of_eq hcode rfl rfl (IntCtl.events_register _ _)))

/-! ## EI and the instruction behind it (R201, R307) -/

/-- The state that EI leaves: it waits, and IME is as before. -/
def State.afterEi (s : State) : State :=
  { s.afterFetch (fetchedBytes .ei) with eiPending := true, pc := s.pc + 1 }

theorem State.RunsMasked.afterEi {s : State} (hs : s.RunsMasked) : s.afterEi.RunsMasked where
  running := hs.running
  masked := hs.masked
  noReset x hx := hs.noReset x (List.mem_of_mem_tail hx)

section BehindEi

variable {s : State} {i : Instr}

theorem State.RunsMasked.step_ei (hs : s.RunsMasked) (hei : s.eiPending = false)
    (hcode : s.holdsAt s.pc (0xFB#8 :: fetchedBytes i)) : step s = .next s.afterEi := by
  obtain ⟨hkind, hctl, hcell, _⟩ := hcode
  have hcodeEi : s.holdsAt s.pc (fetchedBytes .ei) := ⟨hkind, hctl, hcell, trivial⟩
  have hstep := hs.step_eq (i := .ei) rfl hcodeEi
  rw [exec_ei, completeEI_next_of_not_takes _ (.inl hei)] at hstep
  exact hstep

/-- No interrupt is entered behind EI: the next step runs the instruction there, with the EI waiting. -/
theorem State.RunsMasked.step_afterEi (hs : s.RunsMasked) (hi : i.wellFormed = true)
    (hcode : s.holdsAt s.pc (0xFB#8 :: fetchedBytes i)) :
    step s.afterEi = completeEI true i (exec i (s.afterEi.afterFetch (fetchedBytes i))) := by
  obtain ⟨_, _, _, hbehind⟩ := hcode
  exact hs.afterEi.step_eq hi (State.holdsAt_of_eq hbehind rfl rfl (IntCtl.events_register _ _))

end BehindEi

/-- Settles O47: NOP takes the EI that waits. -/
theorem eiEnablesAfterTheNextInstruction : Obligations.EiEnablesAfterTheNextInstruction := by
  intro s hrun hime hei hreset hcode
  have hs : s.RunsMasked := ⟨hrun, hime, hreset⟩
  have hnop := hs.step_afterEi (i := .nop) rfl hcode
  rw [exec_nop, completeEI_next_of_takes (i := .nop) _ nofun nofun] at hnop
  exact ⟨_, _, hs.step_ei (i := .nop) hei hcode, hs.afterEi.masked, rfl, hnop, rfl, rfl,
    BitVec.add_assoc s.pc 1 1, rfl, rfl⟩

/-- Settles O48: DI does not take the EI that waits, and clears it. -/
theorem eiThenDiNeverEnables : Obligations.EiThenDiNeverEnables := by
  intro s hrun hime hei hreset hcode
  have hs : s.RunsMasked := ⟨hrun, hime, hreset⟩
  have hdi := hs.step_afterEi (i := .di) rfl hcode
  rw [exec_di, completeEI_next_of_not_takes _ (.inr (.inl rfl))] at hdi
  exact ⟨_, _, hs.step_ei (i := .di) hei hcode, hs.afterEi.masked, hdi, rfl, rfl,
    BitVec.add_assoc s.pc 1 1, rfl, rfl⟩

end Sys2Proof.Machine
end

section
/-!
PROOFS. The loads and the stores of a byte (spec/45_load.md): what writing a register, loading A and storing a
byte leave, said once for all their forms; an obligation then names each form's address and value.
-/

namespace Sys2Proof.Machine

/-! ## The high page (R210) -/

/-- The low byte of FF00h is zero, so adding a byte to it carries nothing. -/
theorem highPage_eq (v : Byte) : highPage v = 0xFF#8 ++ v := by
  have happend : (0xFF#8 ++ v).toNat = 256 * 0xFF + v.toNat := wordOf_toNat 0xFF#8 v
  have hsum : (highPage v).toNat = (0xFF00 + v.toNat) % 65536 := by simp [highPage]
  have hv : v.toNat < 256 := v.isLt
  apply BitVec.eq_of_toNat_eq
  omega

/-! ## Loads from registers and immediates (R221, R223 to R225) -/

/-- What writing an 8-bit register and moving on does, whichever register it is. -/
theorem State.setReg8_advance (s : State) (r : R8) (v : Byte) (n : Nat) :
    let t := (s.setReg8 r v).advance n
    t.r8 r = v ∧ (∀ x, x ≠ r → t.r8 x = s.r8 x) ∧
      t = { s with regs := t.regs, pc := s.pc + BitVec.ofNat 16 n } :=
  ⟨s.setReg8_r8_same r v, fun _ hx => s.setReg8_r8_other v hx, rfl⟩

/-! A pair written with a word takes the word's two bytes as its halves (R22). -/

theorem State.setBC_wordOf (s : State) (hi lo : Byte) :
    s.setBC (wordOf hi lo) = { s with regs := { s.regs with b := hi, c := lo } } := by
  rw [State.setBC, hiByte_wordOf, loByte_wordOf]

theorem State.setDE_wordOf (s : State) (hi lo : Byte) :
    s.setDE (wordOf hi lo) = { s with regs := { s.regs with d := hi, e := lo } } := by
  rw [State.setDE, hiByte_wordOf, loByte_wordOf]

theorem State.setHL_wordOf (s : State) (hi lo : Byte) :
    s.setHL (wordOf hi lo) = { s with regs := { s.regs with h := hi, l := lo } } := by
  rw [State.setHL, hiByte_wordOf, loByte_wordOf]

/-- LD r16, n16 moves on by its three bytes from the state that writing the register gives. -/
theorem exec_ldR16N16_of_setReg16 {s t : State} {w : Word} (p : R16) (h : s.setReg16 p w = t) :
    exec (.ldR16N16 p w) s = .next (t.advance 3) := by
  rw [← h]
  rfl

/-- Settles O22: every load writes one register, a word immediate as `wordOf` its two bytes. -/
theorem registerLoadsWriteOnlyTheDestination : Obligations.RegisterLoadsWriteOnlyTheDestination :=
  fun s => ⟨fun r q => ⟨_, rfl, s.setReg8_advance r (s.r8 q) 1⟩,
    fun r n => ⟨_, rfl, s.setReg8_advance r n 2⟩,
    fun hi lo => ⟨exec_ldR16N16_of_setReg16 .bc (s.setBC_wordOf hi lo),
      exec_ldR16N16_of_setReg16 .de (s.setDE_wordOf hi lo),
      exec_ldR16N16_of_setReg16 .hl (s.setHL_wordOf hi lo), exec_ldR16N16_of_setReg16 .sp rfl⟩,
    rfl⟩

/-! ## Loads of a byte from memory (R217 to R219, R222, R227, R229, R231) -/

/-- Settles O23: all forms but LD r8, (HL) are `loadA` at an address, with HL moved behind it or not. -/
theorem memoryLoadsReadTheirAddress : Obligations.MemoryLoadsReadTheirAddress := by
  intro s loaded
  have hload (a : Word) (n : Nat) : (.next (loadA a n s) : Result) = .next (loaded a n) :=
    congrArg _ (loadA_eq a n s)
  have hhigh (v : Byte) (n : Nat) :
      (.next (loadA (highPage v) n s) : Result) = .next (loaded (0xFF#8 ++ v) n) := by
    rw [hload, highPage_eq]
  have hmoved (w : Word) :
      (.next ((loadA s.hl 1 s).setHL w) : Result) = .next ((loaded s.hl 1).setHL w) := by
    rw [loadA_eq]
  exact ⟨fun r => ⟨_, rfl, (s.afterRead s.hl).setReg8_advance r (s.readByte s.hl) 1⟩,
    hhigh s.regs.c 1, fun n => hload n 3, hload s.bc 1, hload s.de 1, fun e => hhigh e 2,
    hmoved (s.hl + 1), hmoved (s.hl - 1)⟩

/-! ## Stores of a byte (R211 to R214, R216, R226, R228, R230) -/

/-- A store by an instruction of n bytes: the byte at its address, and what is left alone. -/
theorem State.store_spec (s : State) (a : Word) (v : Byte) (n : Nat) :
    StoresByte s ((s.memWrite a v).advance n) a v ∧
      ChangesMemoryAndPc s ((s.memWrite a v).advance n) (s.pc + BitVec.ofNat 16 n) :=
  ⟨(s.memWrite_storesByte a v).into rfl rfl rfl, ChangesMemoryAndPc.store s a v n⟩

/-- A store at HL after which HL takes the value w: the two halves are all that changes besides. -/
theorem State.storeThenSetHL_spec (s : State) (v : Byte) (w : Word) :
    let t := ((s.memWrite s.hl v).setHL w).advance 1
    StoresByte s t s.hl v ∧ t.hl = w ∧
      ChangesMemoryAndPc { s with regs := { s.regs with h := t.regs.h, l := t.regs.l } } t (s.pc + 1) := by
  refine ⟨(s.memWrite_storesByte s.hl v).into rfl rfl rfl, (s.memWrite s.hl v).setHL_hl w, ?_⟩
  apply State.eq_of_storesPc <;> simp

/-- Settles O24: each form is a store at its rule's address, with HL moved behind it or not. -/
theorem byteStoresWriteOnlyTheirAddress : Obligations.ByteStoresWriteOnlyTheirAddress := by
  intro s stores
  have hhigh (v : Byte) (n : Nat) :
      StoresByte s ((s.memWrite (highPage v) s.regs.a).advance n) (0xFF#8 ++ v) s.regs.a ∧
        ChangesMemoryAndPc s ((s.memWrite (highPage v) s.regs.a).advance n) (s.pc + BitVec.ofNat 16 n) := by
    rw [← highPage_eq]
    exact s.store_spec (highPage v) s.regs.a n
  exact ⟨⟨_, rfl, hhigh s.regs.c 1⟩, fun n => ⟨_, rfl, s.store_spec s.hl n 2⟩,
    fun r => ⟨_, rfl, s.store_spec s.hl (s.r8 r) 1⟩, fun n => ⟨_, rfl, s.store_spec n s.regs.a 3⟩,
    ⟨_, rfl, s.store_spec s.bc s.regs.a 1⟩, ⟨_, rfl, s.store_spec s.de s.regs.a 1⟩,
    fun e => ⟨_, rfl, hhigh e 2⟩, ⟨_, rfl, s.storeThenSetHL_spec s.regs.a (s.hl + 1)⟩,
    ⟨_, rfl, s.storeThenSetHL_spec s.regs.a (s.hl - 1)⟩⟩

end Sys2Proof.Machine
end

section
/-!
PROOFS. The rotates, shifts and SWAP (spec/46_rotate_shift.md): each operation of R250 is shown once to be the
rotation or shift its name says; the sixteen CBh forms are then one lemma over the operation and the operand,
and the four one-byte forms another.
-/

namespace Sys2Proof.Machine

/-! ## The results of R250, bit by bit -/

theorem getElem_bitByte (b : Bool) {j : Nat} (hj : j < 8) :
    (bitByte b)[j] = (decide (j = 0) && b) := by
  have hbyte : bitByte b = (BitVec.ofBool b).setWidth 8 := by cases b <;> rfl
  simp [hbyte, BitVec.getElem_setWidth, BitVec.getLsbD_ofBool]

/-- What RLC puts at bit 0 is what a rotation left by one takes from the other end. -/
theorem bitByte_getLsbD_seven (x : Byte) : bitByte (x.getLsbD 7) = x >>> 7 := by
  ext j hj
  by_cases h : j = 0
  · simp [getElem_bitByte, h]
  · simp [getElem_bitByte, h, BitVec.getLsbD_of_ge x (7 + j) (by omega)]

/-- What RRC puts at bit 7 is what a rotation right by one takes from the other end. -/
theorem bitByte_getLsbD_zero_shiftLeft (x : Byte) : bitByte (x.getLsbD 0) <<< 7 = x <<< 7 := by
  ext j hj
  by_cases h : j = 7
  · simp [getElem_bitByte, h]
  · simp [show j < 7 by omega]

/-- The bits of C:x: C stands above the byte. -/
theorem getElem_ofBool_append (c : Bool) (x : Byte) {j : Nat} (hj : j < 9) :
    (BitVec.ofBool c ++ x : BitVec 9)[j] = if _ : j < 8 then x[j] else c := by
  rw [BitVec.getElem_append]
  by_cases h : j < 8
  · simp [h]
  · simp [h, show j - 8 = 0 by omega]

/-- RL: bit 0 of the rotation of C:x is C, every other bit is the one below it in x. -/
theorem rlOp_fst (x : Byte) (c : Bool) :
    (rlOp x c).1 = ((BitVec.ofBool c ++ x).rotateLeft 1).extractLsb' 0 8 := by
  ext j hj
  by_cases h : j = 0
  · simp [rlOp, getElem_bitByte, getElem_ofBool_append, h]
  · simp [rlOp, getElem_bitByte, getElem_ofBool_append, h, show j < 9 by omega, show j - 1 < 8 by omega]

/-- RR: bit 7 of the byte above the rotation of x:C is C, every other bit is the one above it in x. -/
theorem rrOp_fst (x : Byte) (c : Bool) :
    (rrOp x c).1 = ((x ++ BitVec.ofBool c).rotateRight 1).extractLsb' 1 8 := by
  ext j hj
  rw [BitVec.append_ofBool]
  by_cases h : j = 7
  · simp [rrOp, getElem_bitByte, h]
  · have hpos : 1 + (1 + j) - 1 = 1 + j := by omega
    simp [rrOp, BitVec.getLsbD_concat, hpos, show j < 7 by omega, show 1 + j < 8 by omega]

theorem slaOp_fst (x : Byte) (c : Bool) : (slaOp x c).1 = BitVec.ofNat 8 (2 * x.toNat) := by
  apply BitVec.eq_of_toNat_eq
  simp [slaOp, Nat.shiftLeft_eq, Nat.mul_comm]

/-- SRA: the mask 80h keeps bit 7, which an arithmetic shift repeats. -/
theorem sraOp_fst (x : Byte) (c : Bool) : (sraOp x c).1 = x.sshiftRight 1 := by
  ext j hj
  have hmask : (0x80#8)[j] = decide (7 = j) := BitVec.getLsbD_twoPow 7 j
  by_cases h : j = 7
  · simp [sraOp, BitVec.getElem_sshiftRight, BitVec.msb_eq_getLsbD_last, h]
  · simp [sraOp, BitVec.getElem_sshiftRight, hmask, Ne.symm h, show 1 + j < 8 by omega]

theorem srlOp_fst (x : Byte) (c : Bool) : (srlOp x c).1 = BitVec.ofNat 8 (x.toNat / 2) := by
  have hx : x.toNat / 2 < 256 := by omega
  apply BitVec.eq_of_toNat_eq
  simp [srlOp, Nat.shiftRight_eq_div_pow, Nat.mod_eq_of_lt hx]

/-! ## Result and carry-out of every operation -/

/-- The model's operation of each name. -/
def ShiftName.op (k : ShiftName) : Byte → Bool → Byte × Bool :=
  match k with
  | .rlc => rlcOp
  | .rrc => rrcOp
  | .rl => rlOp
  | .rr => rrOp
  | .sla => slaOp
  | .sra => sraOp
  | .srl => srlOp
  | .swap => swapOp

theorem ShiftName.op_fst (k : ShiftName) (x : Byte) (c : Bool) : (k.op x c).1 = rotatedByte k x c := by
  cases k with
  | rlc => exact congrArg (x <<< 1 ||| ·) (bitByte_getLsbD_seven x)
  | rrc => exact congrArg (x >>> 1 ||| ·) (bitByte_getLsbD_zero_shiftLeft x)
  | rl => exact rlOp_fst x c
  | rr => exact rrOp_fst x c
  | sla => exact slaOp_fst x c
  | sra => exact sraOp_fst x c
  | srl => exact srlOp_fst x c
  | swap => rfl

theorem getLsbD_seven_eq (x : Byte) : x.getLsbD 7 = decide (128 ≤ x.toNat) :=
  (BitVec.msb_eq_getLsbD_last x).symm.trans (BitVec.msb_eq_decide x)

theorem ShiftName.op_snd (k : ShiftName) (x : Byte) (c : Bool) : (k.op x c).2 = rotatedCarry k x := by
  cases k with
  | rlc | rl | sla => exact getLsbD_seven_eq x
  | rrc | rr | sra | srl => exact Nat.testBit_zero x.toNat
  | swap => rfl

theorem ShiftName.shiftFlags_op (k : ShiftName) (x : Byte) (c : Bool) :
    shiftFlags (k.op x c) =
      { z := decide (rotatedByte k x c = 0), n := false, h := false, c := rotatedCarry k x } := by
  rw [shiftFlags, k.op_fst, k.op_snd, beq_eq_decide]

/-! ## The sixteen CBh forms (R251, R252, R254, R255, R257, R258, R260, R261, R263 to R270) -/

/-- Every CBh form replaces its operand by what its operation makes of it and of the old carry. -/
theorem ByteTarget.exec_shift (x : ByteTarget) (k : ShiftName) (s : State) :
    ∃ t, exec (x.shift k) s = .next t ∧
      x.Replaced s t (k.op (x.value s) s.flags.c).1 (shiftFlags (k.op (x.value s) s.flags.c)) 2 := by
  cases x with
  | reg r =>
    have hexec : exec ((ByteTarget.reg r).shift k) s = .next (modifyR8 (shiftOp k.op s.flags) r 2 s) := by
      cases k <;> rfl
    exact ⟨_, hexec, modifyR8_replaced _ r 2 s⟩
  | mem =>
    have hexec : exec (ByteTarget.mem.shift k) s = .next (modifyHL (shiftOp k.op s.flags) 2 s) := by
      cases k <;> rfl
    exact ⟨_, hexec, modifyHL_replaced _ 2 s⟩

/-- Settles O19, from what a CBh form replaces and the result and flags of each operation. -/
theorem rotatesAndShiftsReplaceTheByte : Obligations.RotatesAndShiftsReplaceTheByte := by
  intro s x k
  rw [← k.shiftFlags_op, ← k.op_fst]
  exact x.exec_shift k s

/-! ## The four one-byte forms (R253, R256, R259, R262) -/

theorem rotateA_op (k : ShiftName) (s : State) :
    rotateA k.op s =
      { s with
        regs := { s.regs with a := rotatedByte k s.regs.a s.flags.c }
        flags := ⟨false, false, false, rotatedCarry k s.regs.a⟩
        pc := s.pc + 1 } := by
  rw [rotateA_eq, k.op_fst, k.op_snd]

/-- Settles O20: each form is `rotateA` with one of the four rotations. -/
theorem oneByteRotatesOfAWriteZ0 : Obligations.OneByteRotatesOfAWriteZ0 := by
  intro s after
  have hnext (k : ShiftName) : (.next (rotateA k.op s) : Result) = .next (after k) :=
    congrArg _ (rotateA_op k s)
  exact ⟨hnext .rl, hnext .rlc, hnext .rr, hnext .rrc⟩

/-! ## Operations that undo each other (R255, R261, R270) -/

theorem rotateRight_rotateLeft {w : Nat} (x : BitVec w) (r : Nat) :
    (x.rotateLeft r).rotateRight r = x := by
  ext j hj
  have hr : r % w < w := Nat.mod_lt r (by omega)
  by_cases h : j < w - r % w
  · simp [h]
  · have hback : w - r % w + (j - (w - r % w)) = j := by omega
    simp [h, hback, show j - (w - r % w) < r % w by omega]

theorem rotateLeft_rotateRight {w : Nat} (x : BitVec w) (r : Nat) :
    (x.rotateRight r).rotateLeft r = x := by
  ext j hj
  have hr : r % w < w := Nat.mod_lt r (by omega)
  by_cases h : j < r % w
  · simp [h]
  · have hback : r % w + (j - r % w) = j := by omega
    simp [h, hback, show j - r % w < w - r % w by omega]

/-- Half a turn of a byte is the same in both directions. -/
theorem rotateLeft_four_eq_rotateRight (x : Byte) : x.rotateLeft 4 = x.rotateRight 4 :=
  BitVec.or_comm (x <<< 4) (x >>> 4)

theorem swap_swap (x : Byte) : (x.rotateLeft 4).rotateLeft 4 = x := by
  rw [rotateLeft_four_eq_rotateRight (x.rotateLeft 4), rotateRight_rotateLeft]

/-- The seven 8-bit registers are the whole register file (R21). -/
theorem State.regs_eq (s : State) :
    s.regs = ⟨s.r8 .a, s.r8 .b, s.r8 .c, s.r8 .d, s.r8 .e, s.r8 .h, s.r8 .l⟩ := rfl

theorem State.regs_eq_of_r8 {s t : State} (h : ∀ q, t.r8 q = s.r8 q) : t.regs = s.regs := by
  rw [t.regs_eq, s.regs_eq]
  simp only [h]

/-- Where one operation undoes another on every byte, its form restores the registers after the other's. -/
theorem shift_undone {k j : ShiftName} (undoes : ∀ x c d, rotatedByte j (rotatedByte k x c) d = x)
    (s : State) (r : R8) :
    ∃ t u, exec ((ByteTarget.reg r).shift k) s = .next t ∧
      exec ((ByteTarget.reg r).shift j) t = .next u ∧ u.regs = s.regs := by
  obtain ⟨t, ht, tSame, tOther, -⟩ := rotatesAndShiftsReplaceTheByte s (.reg r) k
  obtain ⟨u, hu, uSame, uOther, -⟩ := rotatesAndShiftsReplaceTheByte t (.reg r) j
  refine ⟨t, u, ht, hu, State.regs_eq_of_r8 fun q => ?_⟩
  by_cases hq : q = r
  · rw [hq, uSame, ByteTarget.value, tSame, undoes, ByteTarget.value]
  · rw [uOther q hq, tOther q hq]

/-- Settles O21: the three pairs are rotations that undo each other. -/
theorem rotatesAndSwapUndoEachOther : Obligations.RotatesAndSwapUndoEachOther := fun s r =>
  ⟨shift_undone (k := .rlc) (j := .rrc) (fun x _ _ => rotateRight_rotateLeft x 1) s r,
    shift_undone (k := .rrc) (j := .rlc) (fun x _ _ => rotateLeft_rotateRight x 1) s r,
    shift_undone (k := .swap) (j := .swap) (fun x _ _ => swap_swap x) s r⟩

end Sys2Proof.Machine
end

section
/-!
PROOFS. Exceptions and interrupts (spec/60_exceptions.md): which request a controller serves and what becomes of
it (R302), the Game Boy's registers IE and IF (R303), the completion of instructions (R301), mode Locked (R300),
the wait of a halted CPU (R310), and the entry of an interrupt (R306, R308).
-/

namespace Sys2Proof.Machine

/-! ## The request that the Game Boy's controller serves (R303) -/

/-- The chain of tests is a search through the five source numbers, the lowest first. -/
theorem lowestRequest_eq_find? : ∀ m : BitVec 5, lowestRequest m = (List.range 5).find? m.getLsbD := by
  decide

section GameBoy

variable (ie : Byte) (irq : BitVec 5)

theorem getLsbD_enabled_and_raised {k : Nat} (hk : k < 5) :
    (ie.extractLsb' 0 5 &&& irq).getLsbD k = true ↔ ie.getLsbD k = true ∧ irq.getLsbD k = true := by
  simp [hk]

theorem IntCtl.pending_gameBoy_eq_none :
    (IntCtl.gameBoy ie irq).pending = none ↔
      ∀ k, k < 5 → ¬(ie.getLsbD k = true ∧ irq.getLsbD k = true) := by
  rw [IntCtl.pending, lowestRequest_eq_find?, List.find?_range_eq_none]
  refine forall₂_congr fun k hk => ?_
  rw [← getLsbD_enabled_and_raised ie irq hk, Bool.not_eq_true', Bool.not_eq_true]

theorem IntCtl.pending_gameBoy_eq_some {n : Nat} (h : (IntCtl.gameBoy ie irq).pending = some n) :
    n < 5 ∧ (ie.getLsbD n = true ∧ irq.getLsbD n = true) ∧
      ∀ k, k < n → ¬(ie.getLsbD k = true ∧ irq.getLsbD k = true) := by
  rw [IntCtl.pending, lowestRequest_eq_find?, List.find?_range_eq_some] at h
  obtain ⟨hdue, hrange, hfirst⟩ := h
  have hn : n < 5 := List.mem_range.mp hrange
  refine ⟨hn, (getLsbD_enabled_and_raised ie irq hn).mp hdue, fun k hk hkdue => ?_⟩
  have hkclear := hfirst k hk
  rw [(getLsbD_enabled_and_raised ie irq (hk.trans hn)).mpr hkdue] at hkclear
  cases hkclear

theorem IntCtl.vector_gameBoy_toNat {n : Nat} (hn : n < 5) :
    ((IntCtl.gameBoy ie irq).vector n).toNat = 0x40 + 8 * n := by
  rw [IntCtl.vector, BitVec.toNat_ofNat, Nat.mod_eq_of_lt (by omega)]

end GameBoy

/-- Source n's request is bit n of IF; a number beyond the five sources is no bit. -/
theorem getLsbD_requestBit (n : Nat) {k : Nat} (hk : k < 5) :
    (1#5 <<< n).getLsbD k = decide (k = n) := by
  rw [← BitVec.twoPow_eq, BitVec.getLsbD_twoPow]
  by_cases h : k = n
  · subst h
    simp [hk]
  · simp [h, Ne.symm h]

theorem getLsbD_clearRequest (irq : BitVec 5) (n : Nat) {k : Nat} (hk : k < 5) :
    (irq &&& ~~~(1#5 <<< n)).getLsbD k = (irq.getLsbD k && decide (k ≠ n)) := by
  rw [BitVec.getLsbD_and, BitVec.getLsbD_not, getLsbD_requestBit n hk, decide_eq_true hk,
    Bool.true_and, decide_not]

theorem getLsbD_setRequest (irq : BitVec 5) (n : Nat) {k : Nat} (hk : k < 5) :
    (irq ||| (1#5 <<< n)).getLsbD k = (irq.getLsbD k || decide (k = n)) := by
  rw [BitVec.getLsbD_or, getLsbD_requestBit n hk]

/-! ## The request that a controller given by its sources serves (R302) -/

section Sources

variable (l : List Source) (m : Option Word)

theorem IntCtl.pending_sources_eq_none :
    (IntCtl.sources l m).pending = none ↔
      ∀ k : Nat, ¬∃ x : Source, l[k]? = some x ∧ x.enabled = true ∧ x.raised = true := by
  rw [IntCtl.pending, firstDue_none]
  constructor
  · rintro hnone k ⟨x, hx, hdue⟩
    exact hnone x (List.mem_of_getElem? hx) hdue
  · intro hnone x hx hdue
    obtain ⟨k, hk⟩ := List.mem_iff_getElem?.mp hx
    exact hnone k ⟨x, hk, hdue⟩

theorem IntCtl.pending_sources_eq_some {n : Nat} (h : (IntCtl.sources l m).pending = some n) :
    (∃ x : Source, l[n]? = some x ∧ x.enabled = true ∧ x.raised = true) ∧
      ∀ k, k < n → ¬∃ x : Source, l[k]? = some x ∧ x.enabled = true ∧ x.raised = true := by
  obtain ⟨j, hn, hdue, hfirst⟩ := firstDue_some h
  obtain rfl : n = j := hn.trans (Nat.zero_add j)
  exact ⟨hdue, fun k hk ⟨x, hx, hkdue⟩ => hfirst k x hk hx hkdue⟩

theorem IntCtl.vector_sources {n : Nat} {x : Source} (h : l[n]? = some x) :
    (IntCtl.sources l m).vector n = x.vector := by
  rw [IntCtl.vector, h]

/-- Entry n is the only one that a change of source n touches; the others keep their number, and with it
their priority. -/
theorem getElem?_modify_source (f : Source → Source) (n k : Nat) :
    (l.modify n f)[k]? = l[k]?.map fun x => if k = n then f x else x := by
  simp only [List.getElem?_modify, Option.map_eq_map, eq_comm (a := k)]

end Sources

/-- Settles O42: for each controller what `pending` finds, and what an act does to one request. -/
theorem controllersRaiseServeAndAcknowledgeRequests :
    Obligations.ControllersRaiseServeAndAcknowledgeRequests := by
  constructor
  · intro ie irq c due
    refine ⟨IntCtl.pending_gameBoy_eq_none ie irq, fun n h => ?_,
      fun n => ⟨_, rfl, fun k => getLsbD_clearRequest irq n⟩,
      fun n => ⟨_, rfl, fun k => getLsbD_setRequest irq n⟩, fun n on => ⟨rfl, rfl⟩⟩
    obtain ⟨hn, hdue, hfirst⟩ := IntCtl.pending_gameBoy_eq_some ie irq h
    exact ⟨hn, hdue, hfirst, IntCtl.vector_gameBoy_toNat ie irq hn⟩
  · intro l m c due changesOnly
    refine ⟨IntCtl.pending_sources_eq_none l m, fun n h => ?_, fun n on => ?_⟩
    · obtain ⟨hdue, hfirst⟩ := IntCtl.pending_sources_eq_some l m h
      have ⟨x, hx, _⟩ := hdue
      refine ⟨hdue, hfirst, ?_⟩
      rw [hx, IntCtl.vector_sources l m hx, Option.map_some]
    · have changes (f : Source → Source) : changesOnly n f (.sources (l.modify n f) m) :=
        ⟨_, rfl, getElem?_modify_source l f n⟩
      exact ⟨changes _, changes _, changes _, changes _⟩

/-! ## Loads and stores of IE and IF (R303) -/

theorem State.readByte_of_readRegister {s : State} {a : Word} {v : Byte}
    (h : s.intCtl.readRegister s.history a = some v) : s.readByte a = v := by
  rw [State.readByte, h]

/-- A store to a register of the controller changes the controller and nothing but the history beside. -/
theorem State.memWrite_of_register {s : State} {a : Word} (v : Byte)
    (h : s.intCtl.register a ≠ none) :
    s.memWrite a v =
      { s with intCtl := s.intCtl.afterStore a v, history := .write a v :: s.history } := by
  cases hc : s.intCtl.writeRegister a v with
  | none => exact absurd ((IntCtl.writeRegister_none _ _ _).mp hc) h
  | some c => rw [State.memWrite, hc, IntCtl.afterStore_some hc]

section Registers

variable (ie : Byte) (irq : BitVec 5) (v : Byte)

theorem IntCtl.readRegister_ie (h : List BusEvent) :
    (IntCtl.gameBoy ie irq).readRegister h 0xFFFF#16 = some ie := rfl

theorem IntCtl.readRegister_if (h : List BusEvent) :
    (IntCtl.gameBoy ie irq).readRegister h 0xFF0F#16 = some (Config.ifUnusedBits h ++ irq) := rfl

theorem IntCtl.afterStore_ie :
    (IntCtl.gameBoy ie irq).afterStore 0xFFFF#16 v = .gameBoy v irq := rfl

theorem IntCtl.afterStore_if :
    (IntCtl.gameBoy ie irq).afterStore 0xFF0F#16 v =
      .gameBoy ie (BitVec.ofNat 5 (v.toNat % 32)) := rfl

end Registers

/-- Settles O43: both addresses are registers of the controller, so a load answers what it holds and a store is
what it makes of the byte. -/
theorem cpuReadsAndWritesIEAndIF : Obligations.CpuReadsAndWritesIEAndIF := by
  intro s ie irq v hctl
  have readsIE : s.readByte 0xFFFF#16 = ie :=
    State.readByte_of_readRegister (by rw [hctl, IntCtl.readRegister_ie])
  have readsIF : s.readByte 0xFF0F#16 = Config.ifUnusedBits s.history ++ irq :=
    State.readByte_of_readRegister (by rw [hctl, IntCtl.readRegister_if])
  refine ⟨readsIE, by rw [readsIF, BitVec.extractLsb'_append_eq_right], ?_, ?_⟩
  · rw [State.memWrite_of_register v (by rw [hctl]; nofun), hctl, IntCtl.afterStore_ie]
  · rw [State.memWrite_of_register v (by rw [hctl]; nofun), hctl, IntCtl.afterStore_if]

/-! ## Completion (R301) -/

/-- Settles O60: an instruction's meaning is written as a next state, but for HALT, which may be refused, and
for the byte CBh, which completes as the instruction behind it does (`runCB_completes`). -/
theorem everyInstructionButHaltCompletes : Obligations.EveryInstructionButHaltCompletes := by
  intro i s hhalt
  cases i with
  | halt => exact absurd rfl hhalt
  | prefixCB => exact runCB_completes _ _
  | _ => exact ⟨_, rfl⟩

/-! ## Mode Locked (R300) -/

theorem exec_unassigned (op : Byte) (s : State) :
    exec (.unassigned op) s = .next { s with mode := .locked op } := rfl

theorem State.cpuStep_locked {s : State} {op : Byte} (wake : Bool) (h : s.mode = .locked op) :
    s.cpuStep wake = .fault (.illegalOpcode op) := by
  rw [State.cpuStep, h]

/-- Settles O38: without a reset the platform's acts leave the mode, and in Locked the CPU's step is the fault. -/
theorem unassignedOpcodeLocksTheCpu : Obligations.UnassignedOpcodeLocksTheCpu := by
  refine ⟨fun s op => exec_unassigned op s, fun s op hlocked hreset => ?_⟩
  rw [step_noReset hreset]
  exact State.cpuStep_locked _ hlocked

/-! ## Mode Halted (R310) -/

theorem State.cpuStep_halted {s : State} (wake : Bool) (h : s.mode = .halted) :
    s.cpuStep wake = .next s.haltedStep := by
  rw [State.cpuStep, h]

theorem State.haltedStep_of_none {s : State} (h : s.intCtl.pending = none) : s.haltedStep = s :=
  if_pos h

theorem State.haltedStep_of_pending {s : State} (h : s.intCtl.pending ≠ none) :
    s.haltedStep = { s with mode := .running } :=
  if_neg h

/-- Settles O35: the two clauses are the branches of the halted step, taken once the requests have arrived. -/
theorem haltedWaitsForAnEnabledRequest : Obligations.HaltedWaitsForAnEnabledRequest := by
  intro s hreset hhalted c
  rw [step_noReset hreset, State.cpuStep_halted _ (by exact hhalted)]
  refine ⟨fun hnone => ?_, fun hpending => ?_⟩
  · rw [State.haltedStep_of_none hnone]
  · rw [State.haltedStep_of_pending hpending]

/-! ## Interrupt entry (R306, R308) -/

/-- With IME = 1 a request that is pending once the requests of the boundary have arrived is entered. -/
theorem step_eq_enterInterrupt {s : State} {n : Nat} (hreset : s.arrival.reset = none)
    (hrun : s.mode = .running) (hime : s.ime = true)
    (hpending : (s.arrival.irqs.foldl IntCtl.event s.intCtl).pending = some n) :
    step s =
      State.enterInterrupt
        { s with
          arrivals := s.arrivals.tail
          intCtl := s.arrival.irqs.foldl IntCtl.event s.intCtl } n := by
  rw [step_noReset hreset, State.cpuStep_running _ (by exact hrun)]
  simp only [State.interruptDue, hime, hpending, if_true]

theorem State.enterInterrupt_refused {s : State} {n : Nat}
    (h : s.intCtl.maskAddr = some (s.sp - 1) ∨ s.intCtl.maskAddr = some (s.sp - 2)) :
    s.enterInterrupt n = .refused .entryOverwritesEnableMask :=
  if_pos h

theorem State.enterInterrupt_completes {s : State} (n : Nat)
    (h1 : s.intCtl.maskAddr ≠ some (s.sp - 1)) (h2 : s.intCtl.maskAddr ≠ some (s.sp - 2)) :
    ∃ t, s.enterInterrupt n = .next t :=
  ⟨_, if_neg (not_or.mpr ⟨h1, h2⟩)⟩

/-- What the platform has still to do plays no part in what a push stores. -/
theorem StoresTwoBytes.of_arrivals {s t : State} {x : List Arrival} {a b : Word} {v w : Byte}
    (h : StoresTwoBytes { s with arrivals := x } t a v b w) : StoresTwoBytes s t a v b w :=
  ⟨h.other, h.plainA, h.plainB, h.notRamA, h.notRamB, h.notPlain, h.controller, h.history⟩

/-- Settles O45: the step is an entry that nothing refuses, and `State.enterInterrupt_next` says all it does. -/
theorem interruptEntrySavesThePcAndMasksInterrupts :
    Obligations.InterruptEntrySavesThePcAndMasksInterrupts := by
  intro s n hreset hrun hime c hpending hhigh hlow
  rw [step_eq_enterInterrupt hreset hrun hime hpending]
  obtain ⟨t, ht⟩ := State.enterInterrupt_completes
    (s := { s with arrivals := s.arrivals.tail, intCtl := c }) n hhigh hlow
  obtain ⟨hstores, hframe⟩ := State.enterInterrupt_next ht
  exact ⟨t, ht, hstores.of_arrivals, hframe⟩

/-- Settles O46. -/
theorem interruptEntryOverTheEnableMaskIsRefused :
    Obligations.InterruptEntryOverTheEnableMaskIsRefused := by
  intro s n hreset hrun hime c hpending hmask
  rw [step_eq_enterInterrupt hreset hrun hime hpending]
  exact State.enterInterrupt_refused hmask

end Sys2Proof.Machine
end

section
/-!
PROOFS. Reset (spec/70_reset_and_hazards.md): the reset that arrives at a boundary (R341, R344), and the state
right after reset (R340).
-/

namespace Sys2Proof.Machine

/-! ## The reset that arrives (R341, R344) -/

/-- With a reset the platform's acts are the reset, and then the controller's events on what the reset left. -/
theorem State.afterArrival_reset {s : State} {r : ResetState} (h : s.arrival.reset = some r) :
    s.afterArrival =
      { s.resetTo r with
        arrivals := s.arrivals.tail
        intCtl := s.arrival.irqs.foldl IntCtl.event s.intCtl.afterReset } := by
  rw [State.afterArrival, h]
  rfl

/-- A step at a boundary with a reset is the CPU's step from the reset state: no mode holds it back. -/
theorem step_reset {s : State} {r : ResetState} (h : s.arrival.reset = some r) :
    step s =
      State.cpuStep
        { s.resetTo r with
          arrivals := s.arrivals.tail
          intCtl := s.arrival.irqs.foldl IntCtl.event s.intCtl.afterReset } s.arrival.stopWake := by
  rw [step, State.afterArrival_reset h]

theorem State.arrival_cons {s : State} {x : Arrival} {later : List Arrival}
    (h : s.arrivals = x :: later) : s.arrival = x := by
  rw [State.arrival, h]

/-- Settles O49: the step is the CPU's step from the reset state (`step_reset`); what the reset makes of the
controller is one equation for each of the two kinds of controller. -/
theorem resetSetsEveryItemOfCpuState : Obligations.ResetSetsEveryItemOfCpuState := by
  intro s r irqs wake later harrivals c
  have harrival := State.arrival_cons harrivals
  have hctl : s.intCtl.afterReset = c := by
    unfold c
    cases s.intCtl with
    | gameBoy ie irq => rfl
    | sources l m => rfl
  rw [step_reset (by rw [harrival]), harrival, harrivals, hctl]
  rfl

/-! ## The state right after reset (R340) -/

/-- Settles O50: the values are those that `State.reset` is written with; F has no storage for its low bits
(`packFlags_low`). -/
theorem resetStateHasTheSpecifiedValues : Obligations.ResetStateHasTheSpecifiedValues :=
  ⟨rfl, rfl, rfl, rfl, packFlags_low State.reset.flags⟩

/-- Settles O51: the CPU runs after reset, so the invariant asks for canonical memory only. -/
theorem resetStateMeetsTheInvariant : Obligations.ResetStateMeetsTheInvariant :=
  .of_running State.reset_mem_wf rfl

end Sys2Proof.Machine
end
